-- ==== Sys2Proof/Word.lean ====
section
/-! DEFINITION. The two word types of the command link: the byte, and the 16-bit words of the CRC, the
era and the journal's sequence numbers. -/

namespace Sys2Proof

/-- One byte of the command link (chapter 11). -/
abbrev Byte := BitVec 8

/-- A 16-bit word: the CRC (R167), the era (R3) and the record sequence numbers (R138), all wrapping. -/
abbrev Half := BitVec 16

end Sys2Proof
end

