-- ==== Sys2Proof/Syntax.lean ====
section
/-! DEFINITION. The commands: one constructor for each row of spec/opcode_table.json, with the operands that
the outside world supplies at that step. A request of the host carries no operand here: its fields stand in the frame
that FRAME_RECEIVED accepted into the link's request queue, and the command is the dispatcher's taking of the request
at the head of that queue (R175). -/

namespace Sys2Proof

/-- A reference path (chapter 2). -/
inductive Path where
  | a
  | b
  deriving DecidableEq, Repr

/-- A logic level of a pin or of an output line. -/
inductive Level where
  | low
  | high
  deriving DecidableEq, Repr

/-- The pins that are sampled when the part starts: the rate straps (R163) and the first sample of each capture
pin (R123). -/
structure PinSample where
  baud1 : Level
  baud0 : Level
  cap0 : Level
  cap1 : Level
  cap2 : Level
  cap3 : Level
  deriving DecidableEq, Repr

/-- The commands, in the order of spec/opcode_table.json. -/
inductive Instr where
  /-- POWER_ON (R181), with the pins sampled at its end. -/
  | powerOn (pins : PinSample)
  /-- RESET_N_LOW (R182). -/
  | resetNLow
  /-- RESET_N_RELEASE (R163), with the pins sampled at the release. -/
  | resetNRelease (pins : PinSample)
  /-- QUERY_STATUS taken (R177). -/
  | queryStatus
  /-- RESET of scope SCHEDULE taken (R90). -/
  | resetSchedule
  /-- RESET of scope JOURNAL taken (R150). -/
  | resetJournal
  /-- RESET of scope TIMESCALE taken (R23). -/
  | resetTimescale
  /-- RESET of scope PART taken (R179). -/
  | resetPart
  /-- QUERY TIME taken (R22). -/
  | queryTime
  /-- SET TIME taken (R7). -/
  | setTime
  /-- CANCEL SET taken (R9). -/
  | cancelSet
  /-- ADJUST TIME taken (R10). -/
  | adjustTime
  /-- STEP TIME taken (R15). -/
  | stepTime
  /-- SET PATH CONFIG taken (R26). -/
  | setPathConfig
  /-- PATH CONTROL with operation RESTART taken (R44). -/
  | pathControlRestart
  /-- PATH CONTROL with operation ENABLE taken (R45). -/
  | pathControlEnable
  /-- PATH CONTROL with operation DISABLE taken (R46). -/
  | pathControlDisable
  /-- QUERY PATHS taken (R48). -/
  | queryPaths
  /-- SET DISCIPLINE CONFIG taken (R50). -/
  | setDisciplineConfig
  /-- ADMIT ENTRY taken (R77 to R85). -/
  | admitEntry
  /-- WITHDRAW ENTRY taken (R86). -/
  | withdrawEntry
  /-- QUERY ENTRY taken (R87). -/
  | queryEntry
  /-- LIST SCHEDULE taken (R88). -/
  | listSchedule
  /-- SET LINE CONFIG taken (R118). -/
  | setLineConfig
  /-- DRIVE LINE taken (R119). -/
  | driveLine
  /-- QUERY LINES taken (R120). -/
  | queryLines
  /-- SET CAPTURE CONFIG taken (R124). -/
  | setCaptureConfig
  /-- READ JOURNAL taken (R145, R146). -/
  | readJournal
  /-- SET ATTENTION taken (R160). -/
  | setAttention
  /-- ACK ATTENTION taken (R158). -/
  | ackAttention
  /-- A request whose KIND is outside the catalogue taken (R176). -/
  | unknownKind
  /-- FRAME_RECEIVED (R167, R170): the last CRC byte of a frame arrives. -/
  | frameReceived (last : Byte)
  /-- FRAME_LENGTH_ERROR (R165): a LEN byte outside 2 to 242 arrives. -/
  | frameLengthError (len : Byte)
  /-- GAP_LIMIT_EXPIRY (R166). -/
  | gapLimitExpiry
  /-- LINK_BREAK (R180), with the pins that are sampled if it completes a PART reset (R182). -/
  | linkBreak (pins : PinSample)
  /-- BREAK_RELEASE (R168). -/
  | breakRelease
  /-- FRAME_TRANSMIT_START (R164). -/
  | frameTransmitStart
  /-- FRAME_TRANSMIT_END (R164), with the pins that are sampled if it completes a PART reset (R179). -/
  | frameTransmitEnd (pins : PinSample)
  /-- SECOND_BOUNDARY (R6). -/
  | secondBoundary
  /-- ANCHOR_HOLD_END (R17). -/
  | anchorHoldEnd
  /-- FIRING (R94) of the armed entry with this handle. -/
  | firing (handle : Nat)
  /-- REFERENCE_STEP (R25, R30): a rising edge on a path's step line, with the level of its mark line. -/
  | referenceStep (path : Path) (mark : Level)
  /-- STEP_WINDOW_EXPIRY (R31). -/
  | stepWindowExpiry (path : Path)
  /-- SILENCE_TIMER_EXPIRY (R39). -/
  | silenceTimerExpiry (path : Path)
  /-- HOLD_OFF_TIMER_EXPIRY (R42). -/
  | holdOffTimerExpiry (path : Path)
  /-- HOLDOVER_TIMER_EXPIRY (R61). -/
  | holdoverTimerExpiry
  /-- TRAILING_EDGE_EXPIRY (R116) on an output line. -/
  | trailingEdgeExpiry (line : Fin 8)
  /-- CAPTURE_EDGE (R122, R127): the sample of a capture pin that shows this level. -/
  | captureEdge (line : Fin 4) (level : Level)
  /-- DEAD_TIME_EXPIRY (R128) of a capture line. -/
  | deadTimeExpiry (line : Fin 4)
  /-- BYTE_RECEIVED (R163, R165): the receiver takes a byte. -/
  | byteReceived (value : Byte)
  /-- TRANSMITTER_STOPS (R180), with the pins that are sampled if it completes a PART reset (R182). -/
  | transmitterStops (pins : PinSample)
  /-- POWER_OFF (R164). -/
  | powerOff
  deriving DecidableEq, Repr

end Sys2Proof
end

