-- ==== Sys2Proof/Decode.lean ====
section
/-! DEFINITION. The commands of this part are events and requests, and no row of spec/opcode_table.json gives bits,
so no word spells a command. -/

namespace Sys2Proof

/-- The command that a word of `nbits` bits spells by the table's bits: none, since the table gives no row any. -/
def decodeTableWord (_nbits _w : Nat) : Option Instr := none

end Sys2Proof
end

