-- ==== Sys2Proof/Config.lean ====
section
/-! DEFINITION. What the part fixes once and for all (limits, capacities, identity codes), and the free
values: constants without a body that stand for what the manual leaves open. -/

namespace Sys2Proof.Config

/-- Ticks in a second of the timescale (Table 0.2). -/
abbrev ticksPerSecond : Nat := 125000000

/-- The seconds count runs from 0 to this less one, and then wraps (R1). -/
abbrev secondsModulus : Nat := 137438953472

/-- Half a second in ticks: the bound of the folding of R13 and R18, and of the remaining slew (R10). -/
abbrev halfSecond : Nat := 62500000

/-- The silence limit of a path in QUALIFYING, in ticks (section 2.2). -/
abbrev silenceLimit : Nat := 250000000

/-- The rate limit: ticks a reference second may be away from one second (section 2.2, R33). -/
abbrev rateLimit : Nat := 12500

/-- Entries the schedule can hold (R74). -/
abbrev scheduleCapacity : Nat := 64

/-- Records the journal can hold (R140). -/
abbrev journalCapacity : Nat := 256

/-- Requests the request queue can hold (R171). -/
abbrev requestCapacity : Nat := 4

/-- Reply places of the outbound queue (R171). -/
abbrev replyPlaces : Nat := 11

/-- Entries of the reply cache (R174). -/
abbrev cacheCapacity : Nat := 4

/-- The part code (section 11.3). -/
abbrev partCode : Nat := 0x0F48

/-- The revision this manual describes (R177, section 11.3). -/
abbrev revision : Nat := 1

/-- FREE VALUE. Where several events of the part fall at one instant and the manual fixes no order among them
(R92, R100, R117 and the other rules of events that fall together), this number, applied to the counter
`State.choices`, says which is taken first. Log entry 3. -/
opaque order : Nat → Nat

/-- FREE VALUE. Where the slew and the frequency correction of one free-running second have been combined into one
count (R12), the manual does not say how much of either part has been applied in the middle of that second
(R14, R23). This number, limited to what the adjustments made and to come allow and applied to `State.choices`, is what is
left of the slew. Log entry 4. -/
opaque unapplied : Nat → Int

end Sys2Proof.Config
end

