-- ==== Sys2Proof/Machine/State.lean ====
section
/-! DEFINITION. The state of the FT48 as plain data, block by block as Table 0.1 lists them, and the state after
power-on. -/

namespace Sys2Proof.Machine

/-! ## Names -/

/-- Whether the part is supplied and out of reset (R164, R182). -/
inductive RunState where
  | off
  | inReset
  | running
  deriving DecidableEq, Repr

/-- A point of the timescale (Table 0.2): seconds and ticks. -/
structure TimeValue where
  sec : Nat
  tick : Nat
  deriving DecidableEq, Repr

/-- The time state (R2). -/
inductive TimeState where
  | unset
  | set
  deriving DecidableEq, Repr

/-- The causes of a discontinuity (Table 1.3). -/
inductive EraCause where
  | load
  | step
  | acquire
  | loadAcquire
  | unset
  deriving DecidableEq, Repr

/-- The discipline states (Table 3.1). -/
inductive DiscState where
  | free
  | acquiring
  | locked
  | holdover
  deriving DecidableEq, Repr

/-- The selection policies (Table 3.3). -/
inductive Policy where
  | preferA
  | preferB
  | onlyA
  | onlyB
  | none
  deriving DecidableEq, Repr

/-- The acquire modes (Table 3.2). -/
inductive AcquireMode where
  | jumpOverLimit
  | alwaysSlew
  deriving DecidableEq, Repr

/-- The state an abandoned acquisition falls back to (Table 3.4). -/
inductive ReturnState where
  | free
  | holdover
  deriving DecidableEq, Repr

/-- The path states (Table 2.6). -/
inductive PathState where
  | disabled
  | absent
  | qualifying
  | good
  | suspect
  | failed
  deriving DecidableEq, Repr

/-- The six fault kinds (Table 2.5). -/
inductive FaultKind where
  | earlyStep
  | missingStep
  | missingMark
  | residue
  | rate
  | skew
  deriving DecidableEq, Repr

/-- The actions of an entry (Table 4.1), PULSE with its width in ticks. -/
inductive Action where
  | rise
  | fall
  | toggle
  | pulse (width : Nat)
  deriving DecidableEq, Repr

/-- The trigger modes (Table 4.1). -/
inductive TriggerMode where
  | once
  | every
  deriving DecidableEq, Repr

/-- The late policies (Table 4.1). -/
inductive LatePolicy where
  | fire
  | skip
  deriving DecidableEq, Repr

/-- The removal outcomes (Table 4.7). -/
inductive RemovalOutcome where
  | complete
  | skipped
  | withdrawn
  deriving DecidableEq, Repr

/-- The modes of an output line (Table 6.1). -/
inductive LineMode where
  | off
  | scheduled
  | manual
  deriving DecidableEq, Repr

/-- The direction of an edge at a capture pin (R122). -/
inductive Edge where
  | rise
  | fall
  deriving DecidableEq, Repr

/-- Which edges a capture line accepts (Table 7.1). -/
inductive EdgeSelect where
  | off
  | rise
  | fall
  | both
  deriving DecidableEq, Repr

/-- The seven attention kinds (Table 9.1), in the bit order of the kind set (section 11.3). -/
inductive AttnKind where
  | path
  | discipline
  | era
  | schedule
  | journalLevel
  | journalOverrun
  | link
  deriving DecidableEq, Repr

/-- The states of an attention kind (section 9.1). -/
inductive AttnState where
  | quiet
  | raised
  | notified
  deriving DecidableEq, Repr

/-- The four link rates (Table 10.2). -/
inductive LinkRate where
  | baud115200
  | baud460800
  | baud1000000
  | baud3000000
  deriving DecidableEq, Repr

/-- The receive states (Table 10.3). CHECK lasts no longer than the event that enters it. -/
inductive RxState where
  | hunt
  | length
  | body
  | check
  deriving DecidableEq, Repr

/-- The causes for which a frame is lost (R169). -/
inductive LinkError where
  | length
  | truncated
  | crc
  | overrun
  deriving DecidableEq, Repr

/-- What began the present run of the part (Table 10.1). -/
inductive StartCause where
  | power
  | pin
  | partRequest
  deriving DecidableEq, Repr

/-- The causes of an ANNOUNCE (R181). -/
inductive AnnounceCause where
  | power
  | pin
  | partRequest
  | linkBreak
  deriving DecidableEq, Repr

/-- The status codes of a reply (Table 11.3). -/
inductive Status where
  | ok
  | busy
  | unknownKind
  | malformed
  | range
  | state
  | notSet
  | duplicate
  | noSuchHandle
  | full
  | late
  deriving DecidableEq, Repr

/-! ## The timescale (chapter 1) -/

/-- The adjustments of the second that is running free (R12): the slew and the whole ticks of frequency correction
spread over the second from tick count `base` on, and how many of the combined adjustments have been made. -/
structure FreeRun where
  slew : Int
  freq : Int
  base : Nat
  done : Nat
  deriving DecidableEq, Repr

/-- Table 1.2, and what sections 1.3, 1.5, 1.7 and 1.9 imply. -/
structure Timescale where
  now : TimeValue
  timeState : TimeState
  era : Half
  stagedLoad : Option Nat
  remainingSlew : Int
  slewAmount : Int            -- the amount in progress, as taken at the second boundary (R11)
  slewLeft : Int              -- while anchored: what of it has not reached the phase offset (R13)
  slewLost : Int              -- while anchored: the parts lost to rounding, in ticks per step count (R13)
  phaseOffset : Int
  freqRemainder : Int         -- the frequency correction remainder, in 10^-9 tick (R12)
  freeRun : FreeRun
  boundaryDue : Bool          -- the tick count has wrapped and the second boundary has yet to be carried out (R6)
  hold : Option Nat           -- local ticks left of a hold at tick 0 (R17)
  switchPending : Bool        -- LOCKED, between a path switch and its measurement (R21)
  deriving DecidableEq, Repr

/-! ## The reference monitors (chapter 2) -/

/-- Table 2.2. The rate is the code of section 11.3: the steps per second are ten to its power. -/
structure PathConfig where
  rate : Fin 7
  tolerance : Nat
  skewLimit : Nat
  qualifyMarks : Nat
  recoverMarks : Nat
  failFaults : Nat
  autoRestart : Bool
  holdOffSeconds : Nat
  deriving DecidableEq, Repr

/-- The fault totals (Table 2.4), one count for each kind. -/
structure FaultTotals where
  earlyStep : Nat
  missingStep : Nat
  missingMark : Nat
  residue : Nat
  rate : Nat
  skew : Nat
  deriving DecidableEq, Repr

/-- The last fault of a path (Table 2.4). -/
structure LastFault where
  kind : FaultKind
  stamp : TimeValue
  deriving DecidableEq, Repr

/-- Table 2.4. Elapsed instants are readings of `State.elapsed`; a running timer holds the ticks it has left. -/
structure Monitor where
  config : PathConfig
  state : PathState
  refInstant : Option Nat
  window : Option Nat
  stepsSinceMark : Nat
  previousMark : Option Nat
  lastAcceptedMark : Option Nat
  firstMarkPending : Bool
  faultSinceMark : Bool
  cleanCount : Nat
  suspectCount : Nat
  silence : Option Nat
  holdOff : Option Nat
  totals : FaultTotals
  lastFault : Option LastFault
  deriving DecidableEq, Repr

/-! ## The discipline controller (chapter 3) -/

/-- Table 3.2. -/
structure DiscConfig where
  policy : Policy
  revertive : Bool
  holdoverLimit : Nat
  acquireMode : AcquireMode
  acquireSlewLimit : Nat
  slewRate : Nat
  deriving DecidableEq, Repr

/-- Table 3.4. The holdover timer, while it runs, holds its elapsed count in ticks. -/
structure Discipline where
  config : DiscConfig
  state : DiscState
  selected : Option Path
  returnState : ReturnState
  holdoverTimer : Option Nat
  freqEstimate : Int
  deriving DecidableEq, Repr

/-! ## The schedule (chapter 4) -/

/-- The repeat of an entry (Table 4.1): period in ticks, and count, 0 for unbounded. -/
structure RepeatSpec where
  period : Nat
  count : Nat
  deriving DecidableEq, Repr

/-- How an entry starts (Table 4.1); the offset is in ticks. -/
inductive StartSpec where
  | timed (first : TimeValue)
  | triggered (line : Fin 4) (offset : Nat) (mode : TriggerMode)
  deriving DecidableEq, Repr

/-- The descriptor fields of an entry (Table 4.1). -/
structure Descriptor where
  handle : Nat
  line : Fin 8
  action : Action
  start : StartSpec
  rep : Option RepeatSpec
  latePolicy : LatePolicy
  reportFirings : Bool
  reportRemoval : Bool
  deriving DecidableEq, Repr

/-- An entry (Tables 4.1 and 4.2). `admission` is its place in the admission order (R71), which does not wrap; the
admission number the host sees is that number modulo 2^32. -/
structure Entry where
  desc : Descriptor
  remaining : Nat
  occurrences : Nat
  admission : Nat
  deriving DecidableEq, Repr

/-- An ARMED entry with its due time. `lap` is how many wraps of the seconds count (R93) still lie between the
current time and the due time: an entry awaits the wrap when it is positive, and it has been passed over at the wrap when
it is negative. -/
structure ArmedEntry where
  entry : Entry
  due : TimeValue
  lap : Int
  deriving DecidableEq, Repr

/-- The schedule: the armed list (R72), the four waiting lists (R73), and how many entries have been admitted since the
counter was last 0 (R71). -/
structure Schedule where
  armed : List ArmedEntry
  waiting : Vector (List Entry) 4
  admissions : Nat
  deriving DecidableEq, Repr

/-! ## The lines (chapters 6 and 7) -/

/-- Table 6.1. The trailing edge, while pending, holds the elapsed ticks left. -/
structure OutLine where
  mode : LineMode
  idle : Level
  level : Level
  trailing : Option Nat
  deriving DecidableEq, Repr

/-- Table 7.1. The dead-time timer, while it runs, holds the elapsed ticks left. -/
structure CapLine where
  select : EdgeSelect
  deadTime : Nat
  oneShot : Bool
  record : Bool
  timer : Option Nat
  level : Level
  deriving DecidableEq, Repr

/-! ## The journal (chapter 8) -/

/-- The fields of each record kind (Table 8.3). -/
inductive RecordBody where
  | capture (line : Fin 4) (edge : Edge) (timeState : TimeState) (discState : DiscState)
  | fired (handle : Nat) (line : Fin 8) (action : Action) (late cut : Bool) (occurrence : Nat)
  | removed (handle : Nat) (outcome : RemovalOutcome) (occurrences : Nat)
  | era (newEra : Half) (cause : EraCause)
  | path (path : Path) (old new : PathState) (fault : Option FaultKind) (selected : Bool)
  | discipline (old new : DiscState) (selected : Option Path)
  | gap (missed : Nat) (first : TimeValue)
  deriving DecidableEq, Repr

/-- A record (Table 8.2). -/
structure Record where
  seq : Half
  era : Half
  stamp : TimeValue
  body : RecordBody
  deriving DecidableEq, Repr

/-- Table 8.1. The fill is the length of `records`. -/
structure Journal where
  records : List Record
  seqCounter : Half
  delivered : Nat
  overrun : Bool
  missed : Nat
  firstMissed : TimeValue
  threshold : Nat
  deriving DecidableEq, Repr

/-! ## The attention unit (chapter 9) -/

/-- The state and the subscribed flag of each kind (R153), indexed in the bit order of the kind set. -/
structure Attention where
  states : Vector AttnState 7
  subscribed : Vector Bool 7
  deriving DecidableEq, Repr

/-! ## The link controller (chapter 10) -/

/-- A request in the request queue: the fields of its frame (Table 11.1). -/
structure Request where
  kind : Byte
  seq : Byte
  crc : Half
  payload : List Byte
  deriving DecidableEq, Repr

/-- An entry of the reply cache (R174). -/
structure CacheEntry where
  kind : Byte
  seq : Byte
  crc : Half
  frame : List Byte
  deriving DecidableEq, Repr

/-- Where a reply came from: the dispatcher (R175), the dispatcher as the reply to a RESET of scope PART (R179), or
the link controller on a frame's receipt (R170). -/
inductive ReplyOrigin where
  | dispatched
  | partReset
  | onReceipt
  deriving DecidableEq, Repr

/-- A frame of the outbound queue. A NOTICE and an ANNOUNCE take their content when they begin (R157, R181). -/
inductive OutFrame where
  | reply (origin : ReplyOrigin) (frame : List Byte)
  | notice
  | announce (cause : AnnounceCause)
  deriving DecidableEq, Repr

/-- The frame in transmission, whether it is the reply to a RESET of scope PART, and whether a break stops it after the
byte in progress (R180). -/
structure Sending where
  frame : List Byte
  partReply : Bool
  stopping : Bool
  deriving DecidableEq, Repr

/-- The link error totals (R169). -/
structure LinkTotals where
  length : Nat
  truncated : Nat
  crc : Nat
  overrun : Nat
  deriving DecidableEq, Repr

/-- Table 10.1. The reserved reply places are one for each request of the queue, so they are not stored again. -/
structure Link where
  rate : LinkRate
  rx : RxState
  rxBytes : List Byte         -- the partial frame: LEN and the bytes after it, in the order received (R166)
  requests : List Request
  outbound : List OutFrame
  cache : List CacheEntry     -- oldest first
  tx : Option Sending
  unsolicitedSeq : Byte
  partPending : Bool
  totals : LinkTotals
  lastError : Option LinkError
  startCause : StartCause
  inBreak : Bool              -- a break has been detected and RXD has not returned high (R168)
  deriving DecidableEq, Repr

/-! ## The whole part -/

/-- The state of the part. `elapsed` counts local-oscillator ticks and is what elapsed instants are readings of;
`choices` counts the free choices already made; `pending` holds the commands that wait, the next one first. -/
structure State where
  run : RunState
  elapsed : Nat
  ts : Timescale
  monA : Monitor
  monB : Monitor
  disc : Discipline
  sched : Schedule
  lines : Vector OutLine 8
  caps : Vector CapLine 4
  shown : Vector Level 8      -- the levels at the ends of the last instant, which the pins present until this one ends (R112)
  sampled : Vector Bool 4     -- the capture lines whose pin has been sampled at this tick (R122)
  journal : Journal
  attn : Attention
  link : Link
  choices : Nat
  pending : List Instr
  deriving DecidableEq, Repr

/-- Why the part stops: for no reason. The manual names no event after which the part is stuck, and gives every
command an effect in every state, so this type has no constructor. -/
inductive Fault where
  deriving DecidableEq, Repr

/-- Why a command has no meaning in the model. -/
inductive Refusal where
  /-- Raised by `exec`'s arm of a command that has no meaning yet; safe, since nothing follows from it. -/
  | notModelled (mnemonic : String)
  deriving DecidableEq, Repr

/-! ## The values after power-on -/

/-- Table 1.2, first reset column. -/
def Timescale.reset : Timescale :=
  { now := ⟨0, 0⟩, timeState := .unset, era := 0#16, stagedLoad := none, remainingSlew := 0, slewAmount := 0,
    slewLeft := 0, slewLost := 0, phaseOffset := 0, freqRemainder := 0, freeRun := ⟨0, 0, 0, 0⟩,
    boundaryDue := false, hold := none, switchPending := false }

/-- The defaults of Table 2.2 (R27). -/
def PathConfig.reset : PathConfig :=
  { rate := 3, tolerance := 125, skewLimit := 125, qualifyMarks := 3, recoverMarks := 2, failFaults := 3,
    autoRestart := false, holdOffSeconds := 10 }

/-- All totals 0 (Table 2.4). -/
def FaultTotals.zero : FaultTotals := ⟨0, 0, 0, 0, 0, 0⟩

/-- Table 2.4, first reset column. -/
def Monitor.reset : Monitor :=
  { config := PathConfig.reset, state := .absent, refInstant := none, window := none, stepsSinceMark := 0,
    previousMark := none, lastAcceptedMark := none, firstMarkPending := false, faultSinceMark := false,
    cleanCount := 0, suspectCount := 0, silence := none, holdOff := none, totals := FaultTotals.zero,
    lastFault := none }

/-- The defaults of Table 3.2. -/
def DiscConfig.reset : DiscConfig :=
  { policy := .preferA, revertive := false, holdoverLimit := 600, acquireMode := .jumpOverLimit,
    acquireSlewLimit := 125000, slewRate := 625 }

/-- Table 3.4. -/
def Discipline.reset : Discipline :=
  { config := DiscConfig.reset, state := .free, selected := none, returnState := .free, holdoverTimer := none,
    freqEstimate := 0 }

/-- Table 4.4, first column. -/
def Schedule.reset : Schedule := { armed := [], waiting := Vector.replicate 4 [], admissions := 0 }

/-- Table 6.1, last column. -/
def OutLine.reset : OutLine := { mode := .off, idle := .low, level := .low, trailing := none }

/-- Table 7.1, last column; the input level is the first sample, here LOW (log entry 2). -/
def CapLine.reset : CapLine :=
  { select := .off, deadTime := 0, oneShot := false, record := true, timer := none, level := .low }

/-- Table 8.1, first reset column. -/
def Journal.reset : Journal :=
  { records := [], seqCounter := 0#16, delivered := 0, overrun := false, missed := 0, firstMissed := ⟨0, 0⟩,
    threshold := 64 }

/-- R153: every kind QUIET, and every kind subscribed except JOURNAL_LEVEL. -/
def Attention.reset : Attention :=
  { states := Vector.replicate 7 .quiet, subscribed := #v[true, true, true, true, false, true, true] }

/-- Table 10.1 after power-on, with the ANNOUNCE of cause POWER queued (R181); the straps are low, low (log entry 2). -/
def Link.reset : Link :=
  { rate := .baud115200, rx := .hunt, rxBytes := [], requests := [], outbound := [.announce .power], cache := [],
    tx := none, unsolicitedSeq := 0#8, partPending := false, totals := ⟨0, 0, 0, 0⟩, lastError := none,
    startCause := .power, inBreak := false }

/-- The part right after power-on: every block at its power-on values and the ANNOUNCE of cause POWER queued. The first
sample of each capture pin has been taken at this tick (R123, log entry 30). -/
def State.reset : State :=
  { run := .running, elapsed := 0, ts := Timescale.reset, monA := Monitor.reset, monB := Monitor.reset,
    disc := Discipline.reset, sched := Schedule.reset, lines := Vector.replicate 8 OutLine.reset,
    caps := Vector.replicate 4 CapLine.reset, shown := Vector.replicate 8 .low,
    sampled := Vector.replicate 4 true, journal := Journal.reset, attn := Attention.reset,
    link := Link.reset, choices := 0, pending := [] }

end Sys2Proof.Machine
end

