-- ==== Sys2Proof/Machine/Bytes.lean ====
section
/-! DEFINITION. Bytes: multi-byte numbers (chapter 11), the code encodings of Table 11.4, the CRC (R167) and the frame
(Table 11.1). -/

namespace Sys2Proof.Machine

/-! ## Numbers -/

/-- The `n` low bytes of a number, most significant first (chapter 11). -/
def beBytes : Nat → Nat → List Byte
  | 0, _ => []
  | n + 1, v => BitVec.ofNat 8 (v / 256 ^ n) :: beBytes n v

/-- The number that bytes spell, most significant first (chapter 11). -/
def beNat (bs : List Byte) : Nat := bs.foldl (fun acc b => acc * 256 + b.toNat) 0

/-- The number in the `len` bytes at an offset. -/
def numAt (off len : Nat) (bs : List Byte) : Nat := beNat ((bs.drop off).take len)

/-- The byte at an offset, as a number. -/
def byteAt (off : Nat) (bs : List Byte) : Nat := (bs.getD off 0#8).toNat

/-- A time value as 8 bytes (R183): seconds in the upper 37 bits, ticks in the lower 27. -/
def timeBytes (t : TimeValue) : List Byte := beBytes 8 (t.sec * 2 ^ 27 + t.tick)

/-- The time value in the 8 bytes at an offset (R183). -/
def timeAt (off : Nat) (bs : List Byte) : TimeValue :=
  ⟨numAt off 8 bs / 2 ^ 27, numAt off 8 bs % 2 ^ 27⟩

/-- A number of ticks as an 8-byte duration (R183). -/
def durationBytes (ticks : Nat) : List Byte :=
  timeBytes ⟨ticks / Config.ticksPerSecond, ticks % Config.ticksPerSecond⟩

/-- The magnitude of a duration in ticks (R183). -/
def TimeValue.ticks (t : TimeValue) : Nat := t.sec * Config.ticksPerSecond + t.tick

/-- The sign byte of a signed amount (R183, R186): zero is sent as positive. -/
def signByte (z : Int) : Byte := if z < 0 then 1#8 else 0#8

/-- A signed amount of ticks: sign and 8-byte magnitude (R183). -/
def signedDuration (z : Int) : List Byte := signByte z :: durationBytes z.natAbs

/-! ## Codes (Table 11.4) -/

def flagByte (b : Bool) : Byte := if b then 1#8 else 0#8

def levelCode : Level → Byte
  | .low => 0#8
  | .high => 1#8

def TimeState.code : TimeState → Byte
  | .unset => 0#8
  | .set => 1#8

def DiscState.code : DiscState → Byte
  | .free => 0#8
  | .acquiring => 1#8
  | .locked => 2#8
  | .holdover => 3#8

/-- A path, or none, in replies and records (Table 11.4). -/
def pathCode : Option Path → Byte
  | some .a => 0#8
  | some .b => 1#8
  | none => 0xFF#8

def PathState.code : PathState → Byte
  | .disabled => 0#8
  | .absent => 1#8
  | .qualifying => 2#8
  | .good => 3#8
  | .suspect => 4#8
  | .failed => 5#8

/-- A fault kind, or none (Table 11.4). -/
def faultCode : Option FaultKind → Byte
  | none => 0#8
  | some .earlyStep => 1#8
  | some .missingStep => 2#8
  | some .missingMark => 3#8
  | some .residue => 4#8
  | some .rate => 5#8
  | some .skew => 6#8

def Action.code : Action → Byte
  | .rise => 0#8
  | .fall => 1#8
  | .toggle => 2#8
  | .pulse _ => 3#8

def RemovalOutcome.code : RemovalOutcome → Byte
  | .complete => 0#8
  | .skipped => 1#8
  | .withdrawn => 2#8

def LineMode.code : LineMode → Byte
  | .off => 0#8
  | .scheduled => 1#8
  | .manual => 2#8

def Edge.code : Edge → Byte
  | .rise => 0#8
  | .fall => 1#8

def EdgeSelect.code : EdgeSelect → Byte
  | .off => 0#8
  | .rise => 1#8
  | .fall => 2#8
  | .both => 3#8

def EraCause.code : EraCause → Byte
  | .load => 0#8
  | .step => 1#8
  | .acquire => 2#8
  | .loadAcquire => 3#8
  | .unset => 4#8

def AttnState.code : AttnState → Byte
  | .quiet => 0#8
  | .raised => 1#8
  | .notified => 2#8

def StartCause.code : StartCause → Byte
  | .power => 0#8
  | .pin => 1#8
  | .partRequest => 2#8

def AnnounceCause.code : AnnounceCause → Byte
  | .power => 0#8
  | .pin => 1#8
  | .partRequest => 2#8
  | .linkBreak => 3#8

/-- A link error cause, or none (Table 11.4). -/
def linkErrorCode : Option LinkError → Byte
  | none => 0#8
  | some .length => 1#8
  | some .truncated => 2#8
  | some .crc => 3#8
  | some .overrun => 4#8

/-- Table 11.3. -/
def Status.code : Status → Byte
  | .ok => 0x00#8
  | .busy => 0x01#8
  | .unknownKind => 0x02#8
  | .malformed => 0x03#8
  | .range => 0x04#8
  | .state => 0x05#8
  | .notSet => 0x06#8
  | .duplicate => 0x07#8
  | .noSuchHandle => 0x08#8
  | .full => 0x09#8
  | .late => 0x0A#8

def flagOf : Nat → Option Bool
  | 0 => some false
  | 1 => some true
  | _ => none

def levelOf : Nat → Option Level
  | 0 => some .low
  | 1 => some .high
  | _ => none

def pathOf : Nat → Option Path
  | 0 => some .a
  | 1 => some .b
  | _ => none

def rateOf (n : Nat) : Option (Fin 7) := if h : n < 7 then some ⟨n, h⟩ else none

def policyOf : Nat → Option Policy
  | 0 => some .preferA
  | 1 => some .preferB
  | 2 => some .onlyA
  | 3 => some .onlyB
  | 4 => some .none
  | _ => none

def acquireModeOf : Nat → Option AcquireMode
  | 0 => some .jumpOverLimit
  | 1 => some .alwaysSlew
  | _ => none

def lineModeOf : Nat → Option LineMode
  | 0 => some .off
  | 1 => some .scheduled
  | 2 => some .manual
  | _ => none

def edgeSelectOf : Nat → Option EdgeSelect
  | 0 => some .off
  | 1 => some .rise
  | 2 => some .fall
  | 3 => some .both
  | _ => none

def latePolicyOf : Nat → Option LatePolicy
  | 0 => some .fire
  | 1 => some .skip
  | _ => none

def triggerModeOf : Nat → Option TriggerMode
  | 0 => some .once
  | 1 => some .every
  | _ => none

/-- A kind set as a byte (Table 11.4): bit i is the kind with index i. -/
def kindSetByte (v : Vector Bool 7) : Byte :=
  BitVec.ofNat 8 (v[0].toNat + 2 * v[1].toNat + 4 * v[2].toNat + 8 * v[3].toNat + 16 * v[4].toNat
    + 32 * v[5].toNat + 64 * v[6].toNat)

/-- The kind set that a byte names, unless bit 7 is set (R184). -/
def kindSetOf (n : Nat) : Option (Vector Bool 7) :=
  if n < 128 then
    some #v[n.testBit 0, n.testBit 1, n.testBit 2, n.testBit 3, n.testBit 4, n.testBit 5, n.testBit 6]
  else none

/-! ## The CRC and the frame -/

/-- One shift of the CRC register (R167). -/
def crcShift (r : Half) : Half := if r.msb then (r <<< 1) ^^^ 0x1021#16 else r <<< 1

/-- `n` shifts of the CRC register. -/
def crcShifts : Nat → Half → Half
  | 0, r => r
  | n + 1, r => crcShifts n (crcShift r)

/-- One byte into the CRC register (R167). -/
def crcByte (r : Half) (b : Byte) : Half := crcShifts 8 (r ^^^ (b.setWidth 16 <<< 8))

/-- The CRC of a run of bytes (R167). -/
def crcOf (bs : List Byte) : Half := bs.foldl crcByte 0xFFFF#16

/-- A frame (Table 11.1): SYNC, LEN, KIND, SEQ, payload and CRC. -/
def mkFrame (kind seq : Byte) (payload : List Byte) : List Byte :=
  let covered := BitVec.ofNat 8 (payload.length + 2) :: kind :: seq :: payload
  0x9D#8 :: (covered ++ beBytes 2 (crcOf covered).toNat)

/-! ## Fixed groups of like things -/

/-- Every member of a group changed alike. -/
def mapVec {α β : Type} {n : Nat} (f : α → β) (v : Vector α n) : Vector β n :=
  ⟨⟨v.toList.map f⟩, by simp⟩

/-- Two groups combined member by member. -/
def zipVec {α β γ : Type} {n : Nat} (f : α → β → γ) (v : Vector α n) (w : Vector β n) : Vector γ n :=
  ⟨⟨List.zipWith f v.toList w.toList⟩, by simp⟩

end Sys2Proof.Machine
end

