-- ==== Sys2Proof/Machine/Flags.lean ====
section
/-! DEFINITION. The flags of the attention unit (chapter 9): the states of the kinds, raising, NOTICE queueing, and the
level of ATTN_N. -/

namespace Sys2Proof.Machine

/-- The bit of a kind in a kind set (Table 11.4). -/
def AttnKind.idx : AttnKind → Fin 7
  | .path => 0
  | .discipline => 1
  | .era => 2
  | .schedule => 3
  | .journalLevel => 4
  | .journalOverrun => 5
  | .link => 6

/-- The state of a kind (R153). -/
def Attention.stateOf (a : Attention) (k : AttnKind) : AttnState := a.states[k.idx]

/-- Whether a kind is subscribed (R153). -/
def Attention.isSubscribed (a : Attention) (k : AttnKind) : Bool := a.subscribed[k.idx]

/-- The kinds that are subscribed and RAISED (R157). -/
def Attention.toNotify (a : Attention) : Vector Bool 7 :=
  zipVec (fun st sub => sub && decide (st = AttnState.raised)) a.states a.subscribed

/-- The kinds that are RAISED or NOTIFIED (R157). -/
def Attention.outstanding (a : Attention) : Vector Bool 7 :=
  mapVec (fun st => decide (st ≠ AttnState.quiet)) a.states

/-- The states of all kinds replaced. -/
def setKinds (v : Vector AttnState 7) (s : State) : State := { s with attn := { s.attn with states := v } }

/-- A kind given a state. -/
def setKind (k : AttnKind) (v : AttnState) (s : State) : State := setKinds (s.attn.states.set k.idx v) s

/-- Whether a frame of the outbound queue is a NOTICE or an ANNOUNCE. -/
def OutFrame.isOwn : OutFrame → Bool
  | .reply _ _ => false
  | .notice => true
  | .announce _ => true

/-- The notice place is free (R156): no NOTICE and no ANNOUNCE waits. -/
def noticePlaceFree (l : Link) : Bool := !(l.outbound.any OutFrame.isOwn)

/-- A frame joins the outbound queue at its tail (R172). -/
def queueFrame (f : OutFrame) (s : State) : State :=
  { s with link := { s.link with outbound := s.link.outbound ++ [f] } }

/-- The attention unit judges whether to queue a NOTICE (R156). -/
def judgeNotice (s : State) : State :=
  if s.attn.toNotify.any id && noticePlaceFree s.link then queueFrame .notice s else s

/-- Raising a kind (R154). -/
def raise (k : AttnKind) (s : State) : State :=
  if s.attn.stateOf k = .quiet then
    if s.attn.isSubscribed k then judgeNotice (setKind k .raised s) else setKind k .raised s
  else s

/-- At the start of a NOTICE the subscribed RAISED kinds become NOTIFIED (R157). -/
def notifyRaised (s : State) : State :=
  setKinds
    (zipVec (fun st sub => if sub && decide (st = AttnState.raised) then .notified else st) s.attn.states
      s.attn.subscribed) s

/-- At a link reset every NOTIFIED kind becomes RAISED (R161). -/
def renotify (s : State) : State :=
  setKinds (mapVec (fun st => if st = AttnState.notified then .raised else st) s.attn.states) s

/-- The kinds of a set become QUIET (R158). -/
def quietKinds (set : Vector Bool 7) (s : State) : State :=
  setKinds (zipVec (fun st named => if named then .quiet else st) s.attn.states set) s

/-- The states of the seven kinds, as replies carry them (Table 11.9). -/
def kindStateBytes (a : Attention) : List Byte := a.states.toList.map AttnState.code

/-- ATTN_N is driven low (R155): the part runs and a subscribed kind is RAISED or NOTIFIED. -/
def attnLow (s : State) : Bool :=
  decide (s.run = .running) &&
    (zipVec (fun st sub => sub && decide (st ≠ AttnState.quiet)) s.attn.states s.attn.subscribed).any id

end Sys2Proof.Machine
end

