-- ==== Sys2Proof/Machine/Ops.lean ====
section
/-! DEFINITION. The operations that several blocks share: arithmetic on time values, appending a record, applying an
action to an output line, a free choice, and the full resets. -/

namespace Sys2Proof.Machine

/-- What a meaning answers. -/
abbrev Outcome := Host.Outcome State Fault Refusal

/-- An event of the running part: it has its effect where it can happen, and otherwise there is no such event and nothing
changes (log entry 5). -/
def event (happens : Bool) (effect : State → State) (s : State) : Outcome :=
  if s.run = .running ∧ happens = true then .next (effect s) else .next s

/-! ## Time values -/

/-- A time value as a count of ticks from 0:0; time values compare as these counts (R72). -/
def TimeValue.lin (t : TimeValue) : Nat := t.sec * Config.ticksPerSecond + t.tick

/-- The length of the whole timescale in ticks: one round of the seconds count (R1). -/
def wrapLin : Nat := Config.secondsModulus * Config.ticksPerSecond

/-- The time value at a count of ticks, the seconds wrapping (R75). -/
def TimeValue.ofLin (n : Nat) : TimeValue :=
  ⟨(n / Config.ticksPerSecond) % Config.secondsModulus, n % Config.ticksPerSecond⟩

/-- Folding into −62,499,999 to +62,500,000 by whole multiples of a second (R13, R18, R34). -/
def foldTicks (z : Int) : Int := (z + 62499999) % 125000000 - 62499999

/-- A signed amount limited in magnitude, keeping its sign (R11, R21). -/
def clampMag (z : Int) (bound : Nat) : Int := max (-(bound : Int)) (min z bound)

/-- A signed amount limited to the range from 0 to `limit`, whichever sign `limit` has. -/
def clampWithin (z limit : Int) : Int := if 0 ≤ limit then max 0 (min z limit) else min 0 (max z limit)

/-- A whole number of seconds in ticks. -/
def secondsTicks (n : Nat) : Nat := n * Config.ticksPerSecond

/-! ## Parts of the state -/

/-- The monitor of a path. -/
def State.mon (s : State) : Path → Monitor
  | .a => s.monA
  | .b => s.monB

/-- The monitor of a path replaced. -/
def setMon (p : Path) (m : Monitor) (s : State) : State :=
  match p with
  | .a => { s with monA := m }
  | .b => { s with monB := m }

/-- The other path. -/
def otherPath : Path → Path
  | .a => .b
  | .b => .a

/-- An output line replaced. -/
def setLine (i : Fin 8) (l : OutLine) (s : State) : State := { s with lines := s.lines.set i l }

/-- A capture line replaced. -/
def setCap (i : Fin 4) (c : CapLine) (s : State) : State := { s with caps := s.caps.set i c }

/-- A count that saturates (R36, R70, R142, R169). -/
def satSucc (limit n : Nat) : Nat := if n < limit then n + 1 else n

/-- One of several things that fall together and have no order among them, by the free value `Config.order`; a single
one is no choice. -/
def pick {α : Type} (x : α) (xs : List α) (s : State) : α × State :=
  match xs with
  | [] => (x, s)
  | _ :: _ =>
    ((x :: xs).getD (Config.order s.choices % (x :: xs).length) x, { s with choices := s.choices + 1 })

/-! ## The journal (section 8.1 to 8.3) -/

/-- A record stored at the tail (R138), raising JOURNAL_LEVEL when the fill reaches the threshold (R148). -/
def storeRecord (body : RecordBody) (s : State) : State :=
  let j := s.journal
  let stored : State :=
    { s with journal :=
        { j with
          records := j.records ++ [⟨j.seqCounter, s.ts.era, s.ts.now, body⟩]
          seqCounter := j.seqCounter + 1 } }
  if j.records.length < j.threshold ∧ j.threshold ≤ j.records.length + 1 then raise .journalLevel stored
  else stored

/-- A record missed: the start of an overrun (R141) or a further miss within one (R142). -/
def missRecord (s : State) : State :=
  let j := s.journal
  if j.overrun then { s with journal := { j with missed := satSucc 65535 j.missed } }
  else
    raise .journalOverrun
      { s with journal := { j with overrun := true, missed := 1, firstMissed := s.ts.now } }

/-- A record reaches the journal with the current time and era (R138): it is stored if there is a free place and missed
otherwise. -/
def appendRecord (body : RecordBody) (s : State) : State :=
  if s.journal.records.length < Config.journalCapacity then storeRecord body s else missRecord s

/-! ## The line driver (sections 6.2 and 6.3) -/

/-- The other level. -/
def flipLevel : Level → Level
  | .low => .high
  | .high => .low

/-- An action applied to a line, and the cut flag it returns (R113 to R115, Table 6.2). -/
def applyAction (a : Action) (l : OutLine) : OutLine × Bool :=
  match a with
  | .rise => ({ l with level := .high, trailing := none }, l.trailing.isSome)
  | .fall => ({ l with level := .low, trailing := none }, l.trailing.isSome)
  | .toggle => ({ l with level := flipLevel l.level, trailing := none }, l.trailing.isSome)
  | .pulse w => ({ l with level := flipLevel l.idle, trailing := some w }, false)

/-- What a RESET of scope SCHEDULE does to a line (R121). -/
def OutLine.scopedReset (l : OutLine) : OutLine :=
  { l with trailing := none, level := if l.mode = .scheduled then l.idle else l.level }

/-! ## Full resets -/

/-- Table 10.2. -/
def strapRate : Level → Level → LinkRate
  | .low, .low => .baud115200
  | .low, .high => .baud460800
  | .high, .low => .baud1000000
  | .high, .high => .baud3000000

/-- The capture lines after a full reset, with the first sample of each pin (R123, R126). -/
def sampledCaps (p : PinSample) : Vector CapLine 4 :=
  #v[{ CapLine.reset with level := p.cap0 }, { CapLine.reset with level := p.cap1 },
    { CapLine.reset with level := p.cap2 }, { CapLine.reset with level := p.cap3 }]

/-- The ANNOUNCE cause of a start (R181). -/
def StartCause.announce : StartCause → AnnounceCause
  | .power => .power
  | .pin => .pin
  | .partRequest => .partRequest

/-- Every block at its power-on values, the straps and capture pins sampled, and the ANNOUNCE of the start queued (R179,
R181). RXD is outside the part, so a break in progress goes on through a PART reset (R182); the elapsed clock and the
choice counter have no reset, and the waiting commands stay. -/
def fullReset (cause : StartCause) (inBreak : Bool) (p : PinSample) (s : State) : State :=
  { State.reset with
    elapsed := s.elapsed
    caps := sampledCaps p
    link :=
      { Link.reset with
        rate := strapRate p.baud1 p.baud0
        outbound := [.announce cause.announce]
        startCause := cause
        inBreak := inBreak }
    choices := s.choices
    pending := s.pending }

end Sys2Proof.Machine
end

