-- ==== Sys2Proof/Machine/Operands.lean ====
section
/-! DEFINITION. The operands of the requests: how each payload of Table 11.9 is read (`none` where it is malformed, R184),
the ranges its numbers must lie in, and the layouts of what replies and records carry. -/

namespace Sys2Proof.Machine

/-! ## Reading request payloads -/

/-- A sign byte and an 8-byte duration (ADJUST TIME, STEP TIME): whether it is negative, and the magnitude (R183, R186). -/
def readSigned (bs : List Byte) : Option (Bool × TimeValue) :=
  if bs.length = 9 then (flagOf (byteAt 0 bs)).map fun neg => (neg, timeAt 1 bs) else none

/-- A tick field must lie below 125,000,000 (R184). -/
def TimeValue.tickOk (t : TimeValue) : Bool := decide (t.tick < Config.ticksPerSecond)

/-- The signed amount of ticks of a sign and a magnitude (R183, R186). -/
def signedTicks (neg : Bool) (t : TimeValue) : Int := if neg then -(t.ticks : Int) else t.ticks

/-- The steps per second of a configuration (Table 2.2). -/
def PathConfig.stepsPerSecond (c : PathConfig) : Nat := 10 ^ c.rate.val

/-- The step period in ticks (section 2.2). -/
def PathConfig.period (c : PathConfig) : Nat := Config.ticksPerSecond / c.stepsPerSecond

/-- The payload of SET PATH CONFIG (R26). -/
def readPathConfig (bs : List Byte) : Option (Path × PathConfig) :=
  if bs.length = 14 then do
    let path ← pathOf (byteAt 0 bs)
    let rate ← rateOf (byteAt 1 bs)
    let auto ← flagOf (byteAt 11 bs)
    some (path,
      { rate := rate, tolerance := numAt 2 4 bs, skewLimit := numAt 6 2 bs, qualifyMarks := byteAt 8 bs,
        recoverMarks := byteAt 9 bs, failFaults := byteAt 10 bs, autoRestart := auto,
        holdOffSeconds := numAt 12 2 bs })
  else none

/-- The ranges of Table 2.2 (R26, check 2). -/
def PathConfig.inRange (c : PathConfig) : Bool :=
  decide (1 ≤ c.tolerance ∧ c.tolerance ≤ c.period / 4) && decide (1 ≤ c.skewLimit ∧ c.skewLimit ≤ 12500)
    && decide (1 ≤ c.qualifyMarks ∧ c.qualifyMarks ≤ 15) && decide (1 ≤ c.recoverMarks ∧ c.recoverMarks ≤ 15)
    && decide (1 ≤ c.failFaults ∧ c.failFaults ≤ 15) && decide (1 ≤ c.holdOffSeconds ∧ c.holdOffSeconds ≤ 3600)

/-- The operations of PATH CONTROL (section 2.7). -/
inductive PathOperation where
  | restart
  | enable
  | disable
  deriving DecidableEq, Repr

def pathOperationOf : Nat → Option PathOperation
  | 0 => some .restart
  | 1 => some .enable
  | 2 => some .disable
  | _ => none

/-- The payload of PATH CONTROL (section 2.7). -/
def readPathControl (bs : List Byte) : Option (Path × PathOperation) :=
  if bs.length = 2 then do
    let path ← pathOf (byteAt 0 bs)
    let op ← pathOperationOf (byteAt 1 bs)
    some (path, op)
  else none

/-- The scopes of RESET (R178). -/
inductive ResetScope where
  | schedule
  | journal
  | timescale
  | part
  deriving DecidableEq, Repr

def resetScopeOf : Nat → Option ResetScope
  | 0 => some .schedule
  | 1 => some .journal
  | 2 => some .timescale
  | 3 => some .part
  | _ => none

/-- The payload of RESET (R178). -/
def readScope (bs : List Byte) : Option ResetScope :=
  if bs.length = 1 then resetScopeOf (byteAt 0 bs) else none

/-- The payload of SET DISCIPLINE CONFIG (R50). -/
def readDiscConfig (bs : List Byte) : Option DiscConfig :=
  if bs.length = 13 then do
    let policy ← policyOf (byteAt 0 bs)
    let revertive ← flagOf (byteAt 1 bs)
    let mode ← acquireModeOf (byteAt 6 bs)
    some
      { policy := policy, revertive := revertive, holdoverLimit := numAt 2 4 bs, acquireMode := mode,
        acquireSlewLimit := numAt 7 4 bs, slewRate := numAt 11 2 bs }
  else none

/-- The ranges of Table 3.2 (R50, check 2). -/
def DiscConfig.inRange (c : DiscConfig) : Bool :=
  decide (c.holdoverLimit ≤ 86400) && decide (c.acquireSlewLimit ≤ 62500000)
    && decide (1 ≤ c.slewRate ∧ c.slewRate ≤ 6250)

/-- An entry descriptor as the request carries it (Table 11.5), its codes read and its numbers not yet judged. -/
structure RawDescriptor where
  handle : Nat
  line : Nat
  actionCode : Nat
  triggerLine : Nat
  trigger : Option TriggerMode     -- absent with a TIMED start
  hasRepeat : Bool
  latePolicy : LatePolicy
  reportFirings : Bool
  reportRemoval : Bool
  width : TimeValue
  start : TimeValue
  period : TimeValue
  count : Nat
  deriving DecidableEq, Repr

/-- Check 1 of an admission (R78): the length, and every code of a present part. The trigger mode of a TIMED start is not
examined. -/
def readDescriptor (bs : List Byte) : Option RawDescriptor :=
  if bs.length = 38 ∧ byteAt 3 bs ≤ 3 then do
    let triggered ← flagOf (byteAt 4 bs)
    let trigger ← if triggered then (triggerModeOf (byteAt 6 bs)).map some else some none
    let hasRepeat ← flagOf (byteAt 7 bs)
    let latePolicy ← latePolicyOf (byteAt 8 bs)
    let reportFirings ← flagOf (byteAt 9 bs)
    let reportRemoval ← flagOf (byteAt 10 bs)
    some
      { handle := numAt 0 2 bs, line := byteAt 2 bs, actionCode := byteAt 3 bs, triggerLine := byteAt 5 bs,
        trigger := trigger, hasRepeat := hasRepeat, latePolicy := latePolicy, reportFirings := reportFirings,
        reportRemoval := reportRemoval, width := timeAt 12 bs, start := timeAt 20 bs, period := timeAt 28 bs,
        count := numAt 36 2 bs }
  else none

/-- A duration within bounds, its tick field below 125,000,000 (Table 4.6, R184). -/
def durationOk (t : TimeValue) (low high : Nat) : Bool :=
  t.tickOk && decide (low ≤ t.ticks ∧ t.ticks ≤ high)

/-- 86,400 s in ticks (Table 4.6). -/
def dayTicks : Nat := secondsTicks 86400

/-- The action that a descriptor names. -/
def RawDescriptor.action (d : RawDescriptor) : Action :=
  match d.actionCode with
  | 0 => .rise
  | 1 => .fall
  | 2 => .toggle
  | _ => .pulse d.width.ticks

/-- The repeat that a descriptor names. -/
def RawDescriptor.rep (d : RawDescriptor) : Option RepeatSpec :=
  if d.hasRepeat then some ⟨d.period.ticks, d.count⟩ else none

/-- The numbers of Table 4.6 other than the two line numbers, each judged when its part is present (R79). -/
def RawDescriptor.numbersOk (d : RawDescriptor) : Bool :=
  decide (1 ≤ d.handle ∧ d.handle ≤ 4095)
    && (d.actionCode != 3 || durationOk d.width 1 125000000)
    && (match d.trigger with
        | none => d.start.tickOk
        | some _ => durationOk d.start 125 dayTicks)
    && (!d.hasRepeat || durationOk d.period 1250 dayTicks)
    && (!(d.hasRepeat && d.actionCode == 3) || decide (d.width.ticks < d.period.ticks))

/-- The start that a descriptor names; none where its trigger line is out of range. -/
def RawDescriptor.startSpec (d : RawDescriptor) : Option StartSpec :=
  match d.trigger with
  | none => some (.timed d.start)
  | some mode => if h : d.triggerLine < 4 then some (.triggered ⟨d.triggerLine, h⟩ d.start.ticks mode) else none

/-- Check 5 of an admission (R79): the descriptor to store, or none where a present field is out of range. -/
def RawDescriptor.checked (d : RawDescriptor) : Option Descriptor :=
  if h : d.line < 8 then
    if d.numbersOk then
      d.startSpec.map fun start =>
        { handle := d.handle, line := ⟨d.line, h⟩, action := d.action, start := start, rep := d.rep,
          latePolicy := d.latePolicy, reportFirings := d.reportFirings, reportRemoval := d.reportRemoval }
    else none
  else none

/-- The payload of WITHDRAW ENTRY and QUERY ENTRY: a handle. -/
def readHandle (bs : List Byte) : Option Nat := if bs.length = 2 then some (numAt 0 2 bs) else none

/-- The payload of SET LINE CONFIG (R118): line number, mode, idle level. -/
def readLineConfig (bs : List Byte) : Option (Nat × LineMode × Level) :=
  if bs.length = 3 then do
    let mode ← lineModeOf (byteAt 1 bs)
    let idle ← levelOf (byteAt 2 bs)
    some (byteAt 0 bs, mode, idle)
  else none

/-- The payload of DRIVE LINE (R119): line number, level. -/
def readDriveLine (bs : List Byte) : Option (Nat × Level) :=
  if bs.length = 2 then (levelOf (byteAt 1 bs)).map fun level => (byteAt 0 bs, level) else none

/-- The payload of SET CAPTURE CONFIG (R124): line number, edge select, dead time, one-shot, record flag. -/
def readCaptureConfig (bs : List Byte) : Option (Nat × EdgeSelect × TimeValue × Bool × Bool) :=
  if bs.length = 12 then do
    let select ← edgeSelectOf (byteAt 1 bs)
    let oneShot ← flagOf (byteAt 10 bs)
    let record ← flagOf (byteAt 11 bs)
    some (byteAt 0 bs, select, timeAt 2 bs, oneShot, record)
  else none

/-- The dead time is at most 1,250,000 ticks: seconds part 0 and tick part at most that (R124, check 2). -/
def deadTimeOk (t : TimeValue) : Bool := decide (t.sec = 0 ∧ t.tick ≤ 1250000)

/-- The payload of READ JOURNAL (R145): release count and maximum count. -/
def readJournalCounts (bs : List Byte) : Option (Nat × Nat) :=
  if bs.length = 2 then some (byteAt 0 bs, byteAt 1 bs) else none

/-- The payload of SET ATTENTION (R160): subscription set and threshold. -/
def readAttention (bs : List Byte) : Option (Vector Bool 7 × Nat) :=
  if bs.length = 3 then (kindSetOf (byteAt 0 bs)).map fun set => (set, numAt 1 2 bs) else none

/-- The payload of ACK ATTENTION (R158): a kind set. -/
def readKindSet (bs : List Byte) : Option (Vector Bool 7) :=
  if bs.length = 1 then kindSetOf (byteAt 0 bs) else none

/-! ## What replies carry -/

/-- A reply: its status, and what follows the status byte (Table 11.9). -/
structure Reply where
  status : Status
  body : List Byte
  deriving DecidableEq, Repr

/-- A reply with status OK. -/
def okReply (body : List Byte) : Reply := ⟨.ok, body⟩

/-- A reply that carries its status alone (R185). -/
def plainReply (status : Status) : Reply := ⟨status, []⟩

/-- The payload of a reply: the status byte first (Table 11.1). -/
def Reply.payload (r : Reply) : List Byte := r.status.code :: r.body

/-- The configuration of a path as SET PATH CONFIG carries it from steps per second on: 13 bytes. -/
def pathConfigBytes (c : PathConfig) : List Byte :=
  [BitVec.ofNat 8 c.rate.val] ++ beBytes 4 c.tolerance ++ beBytes 2 c.skewLimit ++ beBytes 1 c.qualifyMarks
    ++ beBytes 1 c.recoverMarks ++ beBytes 1 c.failFaults ++ [flagByte c.autoRestart] ++ beBytes 2 c.holdOffSeconds

/-- A last fault: present flag, kind and time value, zero where absent (R48, R185). -/
def lastFaultBytes : Option LastFault → List Byte
  | some f => [1#8, faultCode (some f.kind)] ++ timeBytes f.stamp
  | none => [0#8, 0#8] ++ timeBytes ⟨0, 0⟩

/-- A path block of QUERY PATHS (section 11.7): 32 bytes. -/
def pathBlock (m : Monitor) : List Byte :=
  [m.state.code] ++ pathConfigBytes m.config ++ beBytes 1 m.cleanCount ++ beBytes 1 m.suspectCount
    ++ beBytes 1 m.totals.earlyStep ++ beBytes 1 m.totals.missingStep ++ beBytes 1 m.totals.missingMark
    ++ beBytes 1 m.totals.residue ++ beBytes 1 m.totals.rate ++ beBytes 1 m.totals.skew
    ++ lastFaultBytes m.lastFault

/-- An entry descriptor as QUERY ENTRY returns it (Table 11.5), bytes of absent parts and spare bytes zero (R185). -/
def descriptorBytes (d : Descriptor) : List Byte :=
  let trigger : List Byte :=
    match d.start with
    | .timed _ => [0#8, 0#8, 0#8]
    | .triggered line _ mode =>
      [1#8, BitVec.ofNat 8 line.val, match mode with | .once => 0#8 | .every => 1#8]
  let width : List Byte :=
    match d.action with
    | .pulse w => durationBytes w
    | _ => durationBytes 0
  let start : List Byte :=
    match d.start with
    | .timed first => timeBytes first
    | .triggered _ offset _ => durationBytes offset
  let rep : List Byte :=
    match d.rep with
    | some r => durationBytes r.period ++ beBytes 2 r.count
    | none => durationBytes 0 ++ beBytes 2 0
  beBytes 2 d.handle ++ [BitVec.ofNat 8 d.line.val, d.action.code] ++ trigger
    ++ [flagByte d.rep.isSome, (match d.latePolicy with | .fire => 0#8 | .skip => 1#8), flagByte d.reportFirings,
      flagByte d.reportRemoval, 0#8]
    ++ width ++ start ++ rep

/-- The present parts of an entry (section 11.7): bit 0 width, bit 1 first due time, bit 2 the trigger fields, bit 3 the
repeat. -/
def presentParts (d : Descriptor) : Byte :=
  let width := match d.action with | .pulse _ => 1 | _ => 0
  let start := match d.start with | .timed _ => 2 | .triggered _ _ _ => 4
  let rep := if d.rep.isSome then 8 else 0
  BitVec.ofNat 8 (width + start + rep)

/-- The admission number the host sees (R71): it wraps from 4,294,967,295 to 0. -/
def Entry.number (e : Entry) : Nat := e.admission % 2 ^ 32

/-- An output block of QUERY LINES (section 11.7): 8 bytes. The model's choice (log entry 29): a trailing edge that has run
out and whose expiry has yet to be taken is pending with 0 ticks left. -/
def outputBlock (l : OutLine) : List Byte :=
  [l.mode.code, levelCode l.idle, levelCode l.level, flagByte l.trailing.isSome] ++ beBytes 4 (l.trailing.getD 0)

/-- The four configuration fields of a capture line, as replies carry them (Table 11.9): 11 bytes. -/
def captureConfigBytes (c : CapLine) : List Byte :=
  [c.select.code] ++ durationBytes c.deadTime ++ [flagByte c.oneShot, flagByte c.record]

/-- A capture block of QUERY LINES (section 11.7): 12 bytes. -/
def captureBlock (c : CapLine) : List Byte := captureConfigBytes c ++ [levelCode c.level]

/-- The kind code and the kind part of a record (Tables 11.6 and 11.7): 11 bytes, spare bytes zero. -/
def recordBodyBytes : RecordBody → Byte × List Byte
  | .capture line edge ts ds =>
    (1#8, [BitVec.ofNat 8 line.val, edge.code, ts.code, ds.code] ++ List.replicate 7 0#8)
  | .fired handle line action late cut occurrence =>
    (2#8, beBytes 2 handle ++ [BitVec.ofNat 8 line.val, action.code, flagByte late, flagByte cut]
      ++ beBytes 2 occurrence ++ List.replicate 3 0#8)
  | .removed handle outcome occurrences =>
    (3#8, beBytes 2 handle ++ [outcome.code] ++ beBytes 2 occurrences ++ List.replicate 6 0#8)
  | .era newEra cause => (4#8, beBytes 2 newEra.toNat ++ [cause.code] ++ List.replicate 8 0#8)
  | .path path old new fault selected =>
    (5#8, [pathCode (some path), old.code, new.code, faultCode fault, flagByte selected] ++ List.replicate 6 0#8)
  | .discipline old new selected => (6#8, [old.code, new.code, pathCode selected] ++ List.replicate 8 0#8)
  | .gap missed first => (7#8, beBytes 2 missed ++ timeBytes first ++ [0#8])

/-- A record as its 24 bytes (Table 11.6). -/
def recordBytes (r : Record) : List Byte :=
  [(recordBodyBytes r.body).1] ++ beBytes 2 r.seq.toNat ++ beBytes 2 r.era.toNat ++ timeBytes r.stamp
    ++ (recordBodyBytes r.body).2

end Sys2Proof.Machine
end

