-- ==== Sys2Proof/Machine/Dispatcher.lean ====
section
/-! DEFINITION. The request dispatcher (section 10.5) and the reply cache (section 10.4): taking the request at the head of
the request queue, queueing its reply and caching it. -/

namespace Sys2Proof.Machine

/-- A reply that the dispatcher has queued and that has not begun transmission (R175). -/
def OutFrame.isDispatched : OutFrame → Bool
  | .reply .dispatched _ => true
  | .reply .partReset _ => true
  | .reply .onReceipt _ => false
  | .notice => false
  | .announce _ => false

/-- The dispatcher may take a request (R175): the part runs, no reply of the dispatcher waits, and no PART reset is
pending. -/
def dispatcherReady (s : State) : Bool :=
  decide (s.run = .running) && !(s.link.outbound.any OutFrame.isDispatched) && !s.link.partPending

/-- The request that the dispatcher takes now, if any (R175): the head of the request queue. -/
def headRequest (s : State) : Option Request := if dispatcherReady s then s.link.requests.head? else none

/-- The request at the head leaves the request queue (R175); its reservation goes with it (R171). -/
def dequeueRequest (s : State) : State := { s with link := { s.link with requests := s.link.requests.tail } }

/-- A KIND of the catalogue of 22 requests (R176). -/
def inCatalogue (kind : Byte) : Bool := decide (1 ≤ kind.toNat ∧ kind.toNat ≤ 0x16)

/-- The KIND of a reply (R176). -/
def replyKind (kind : Byte) : Byte := if inCatalogue kind then kind + 0x80#8 else 0x80#8

/-- The frame of a reply to a request: the request's SEQ is echoed (R164). -/
def replyFrame (kind seq : Byte) (rep : Reply) : List Byte := mkFrame (replyKind kind) seq rep.payload

/-- An entry added to the reply cache, the oldest leaving a full one (R174). -/
def pushCache (e : CacheEntry) (cache : List CacheEntry) : List CacheEntry :=
  (if cache.length < Config.cacheCapacity then cache else cache.tail) ++ [e]

/-- The reply to a taken request is queued and cached (R174, R175). -/
def answer (origin : ReplyOrigin) (r : Request) (rep : Reply) (s : State) : State :=
  let frame := replyFrame r.kind r.seq rep
  let queued := queueFrame (.reply origin frame) s
  { queued with link :=
      { queued.link with cache := pushCache ⟨r.kind, r.seq, r.crc, frame⟩ queued.link.cache } }

/-- Taking a request is one instant (R175): if the dispatcher is ready and the head request is one that the command
takes, it leaves the queue, its owner carries it out, and its reply is queued and cached. Otherwise there is no such take
and nothing changes (log entry 5). -/
def take (accepts : Request → Bool) (owner : Request → State → Reply × State) (s : State) : Outcome :=
  match headRequest s with
  | none => .next s
  | some r =>
    if accepts r then
      let done := owner r (dequeueRequest s)
      .next (answer .dispatched r done.1 done.2)
    else .next s

/-- The request has this KIND (Table 11.2). -/
def hasKind (kind : Byte) (r : Request) : Bool := r.kind == kind

/-- A request without a payload: MALFORMED if it carries one (R176). -/
def bare (owner : State → Reply × State) (r : Request) (s : State) : Reply × State :=
  if r.payload = [] then owner s else (plainReply .malformed, s)

/-- A request whose payload must be read: MALFORMED if it cannot (R176, R184). -/
def parsed {α : Type} (read : List Byte → Option α) (owner : α → State → Reply × State) (r : Request) (s : State) :
    Reply × State :=
  match read r.payload with
  | none => (plainReply .malformed, s)
  | some x => owner x s

/-- A refused request changes nothing and its reply carries the status alone (R176, R185). -/
def refuse (status : Status) (s : State) : Reply × State := (plainReply status, s)

end Sys2Proof.Machine
end

