-- ==== Sys2Proof/Machine/JournalRequests.lean ====
section
/-! DEFINITION. Meanings of the requests of the journal (chapter 8) and of the attention unit (chapter 9), and of a request
outside the catalogue (R176). -/

namespace Sys2Proof.Machine

/-! ## The journal -/

/-- Records leave the journal from its head. -/
def dropRecords (count : Nat) (s : State) : State :=
  { s with journal := { s.journal with records := s.journal.records.drop count } }

/-- The overrun ends, its items back at their values of Table 8.1 (R143). -/
def endOverrun (s : State) : State :=
  { s with journal := { s.journal with overrun := false, missed := 0, firstMissed := ⟨0, 0⟩ } }

/-- The release of a READ JOURNAL (R146, step 1), with the GAP record that ends an overrun (R143). -/
def release (count : Nat) (s : State) : State :=
  let dropped := dropRecords count s
  if s.journal.overrun ∧ 1 ≤ count then
    storeRecord (.gap s.journal.missed s.journal.firstMissed) (endOverrun dropped)
  else dropped

/-- The records a READ JOURNAL returns (R146, step 2). -/
def returned (most : Nat) (s : State) : List Record := s.journal.records.take most

/-- The delivered count replaced. -/
def setDelivered (count : Nat) (s : State) : State := { s with journal := { s.journal with delivered := count } }

/-- The reply to an accepted READ JOURNAL (R146, Table 11.9). -/
def readReply (records : List Record) (s : State) : Reply :=
  okReply
    (beBytes 2 s.journal.records.length ++ [flagByte s.journal.overrun] ++ beBytes 1 records.length
      ++ (records.map recordBytes).flatten)

/-- The checks and the effect of READ JOURNAL (R145, R146). -/
def readRecords (counts : Nat × Nat) (s : State) : Reply × State :=
  if counts.1 ≤ 9 ∧ 1 ≤ counts.2 ∧ counts.2 ≤ 9 ∧ counts.1 ≤ s.journal.delivered then
    let released := release counts.1 s
    let records := returned counts.2 released
    (readReply records released, setDelivered records.length released)
  else refuse .range s

/-- READ_JOURNAL (R145, R146). -/
def execReadJournal (s : State) : Outcome := take (hasKind 0x14#8) (parsed readJournalCounts readRecords) s

/-! ## The attention unit -/

/-- The subscription set and the threshold replaced (R160). -/
def subscribe (set : Vector Bool 7) (threshold : Nat) (s : State) : State :=
  { s with attn := { s.attn with subscribed := set }, journal := { s.journal with threshold := threshold } }

/-- The journal judges a new threshold against its fill (R148). -/
def judgeThreshold (old : Nat) (s : State) : State :=
  let fill := s.journal.records.length
  if fill < old ∧ s.journal.threshold ≤ fill then raise .journalLevel s else s

/-- The kinds that are newly subscribed and RAISED (R160). -/
def newlyRaised (old : Vector Bool 7) (a : Attention) : Vector Bool 7 :=
  zipVec (fun was now => !was && now) old a.toNotify

/-- The checks and the effect of SET ATTENTION (R160). -/
def setAttention (c : Vector Bool 7 × Nat) (s : State) : Reply × State :=
  if 1 ≤ c.2 ∧ c.2 ≤ Config.journalCapacity then
    let judged := judgeThreshold s.journal.threshold (subscribe c.1 c.2 s)
    let done := if (newlyRaised s.attn.subscribed judged.attn).any id then judgeNotice judged else judged
    (okReply (kindSetByte c.1 :: (beBytes 2 c.2 ++ kindStateBytes done.attn)), done)
  else refuse .range s

/-- SET_ATTENTION (R160). -/
def execSetAttention (s : State) : Outcome := take (hasKind 0x15#8) (parsed readAttention setAttention) s

/-- The effect of ACK ATTENTION (R158): the named kinds become QUIET, and JOURNAL_LEVEL is raised again if it was named and
the fill stands at or above the threshold. -/
def acknowledge (set : Vector Bool 7) (s : State) : Reply × State :=
  let quiet := quietKinds set s
  let done :=
    if set[AttnKind.journalLevel.idx] ∧ s.journal.threshold ≤ s.journal.records.length then
      raise .journalLevel quiet
    else quiet
  (okReply (kindStateBytes done.attn ++ [kindSetByte done.attn.subscribed]), done)

/-- ACK_ATTENTION (R158). -/
def execAckAttention (s : State) : Outcome := take (hasKind 0x16#8) (parsed readKindSet acknowledge) s

/-! ## Outside the catalogue -/

/-- The reply to a request outside the catalogue carries the KIND received (R176, R185). -/
def unknownReply (r : Request) (s : State) : Reply × State := (⟨.unknownKind, [r.kind]⟩, s)

/-- UNKNOWN_KIND (R176). -/
def execUnknownKind (s : State) : Outcome := take (fun r => !inCatalogue r.kind) unknownReply s

end Sys2Proof.Machine
end

