-- ==== Sys2Proof/Machine/ScheduleOps.lean ====
section
/-! DEFINITION. The schedule engine: the ordered lists (section 4.2), firing and moving on (sections 5.1 to 5.4), and jumps
(section 5.5). -/

namespace Sys2Proof.Machine

/-! ## The lists -/

/-- The due time as a count of ticks on the round of the seconds count that the current time is in (R93): awaiting the wrap
puts it on a later round. -/
def ArmedEntry.lin (a : ArmedEntry) : Int := a.due.lin + a.lap * wrapLin

/-- The entry awaits the wrap (R93). -/
def ArmedEntry.awaitsWrap (a : ArmedEntry) : Bool := decide (0 < a.lap)

/-- The entry is reached: the current time has arrived at its due time or passed over it (R91, R93). -/
def ArmedEntry.reached (now : TimeValue) (a : ArmedEntry) : Bool := decide (a.lin ≤ now.lin)

/-- The order of the armed list (R72): by due time as a plain value, and by admission among equal due times. -/
def ArmedEntry.before (a b : ArmedEntry) : Bool :=
  decide (a.due.lin < b.due.lin) || (decide (a.due.lin = b.due.lin) && decide (a.entry.admission < b.entry.admission))

/-- Insertion into the armed list (R72). -/
def insertArmed (a : ArmedEntry) : List ArmedEntry → List ArmedEntry
  | [] => [a]
  | b :: rest => if a.before b then a :: b :: rest else b :: insertArmed a rest

/-- The handle of an armed entry. -/
def ArmedEntry.handle (a : ArmedEntry) : Nat := a.entry.desc.handle

/-- A due time moved on by a number of ticks, the seconds wrapping (R75, R93). -/
def ArmedEntry.advance (a : ArmedEntry) (ticks : Nat) : ArmedEntry :=
  { a with
    due := TimeValue.ofLin (a.due.lin + ticks)
    lap := a.lap + ((a.due.lin + ticks) / wrapLin : Nat) }

/-- The armed list replaced. -/
def setArmed (l : List ArmedEntry) (s : State) : State := { s with sched := { s.sched with armed := l } }

/-- The waiting list of a capture line replaced. -/
def setWaiting (i : Fin 4) (l : List Entry) (s : State) : State :=
  { s with sched := { s.sched with waiting := s.sched.waiting.set i l } }

/-- An entry joins the armed list (R72). -/
def arm (a : ArmedEntry) (s : State) : State := setArmed (insertArmed a s.sched.armed) s

/-- An entry joins the tail of a waiting list (R73). -/
def joinWaiting (i : Fin 4) (e : Entry) (s : State) : State := setWaiting i (s.sched.waiting[i] ++ [e]) s

/-- An entry leaves the armed list. -/
def disarm (handle : Nat) (s : State) : State :=
  setArmed (s.sched.armed.filter fun a => a.handle != handle) s

/-- Every WAITING entry, waiting list 0 first (R88). -/
def Schedule.allWaiting (c : Schedule) : List Entry := c.waiting.toList.flatten

/-- Every entry present (R74). -/
def Schedule.entries (c : Schedule) : List Entry := c.armed.map ArmedEntry.entry ++ c.allWaiting

/-- The handle is in use (R74). -/
def Schedule.holds (c : Schedule) (handle : Nat) : Bool := c.entries.any fun e => e.desc.handle == handle

/-- An entry names the output line (R118). -/
def Schedule.targets (c : Schedule) (line : Fin 8) : Bool := c.entries.any fun e => decide (e.desc.line = line)

/-- The schedule without entries; the admission counter is kept (R90). -/
def emptySchedule (s : State) : State :=
  { s with sched := { s.sched with armed := [], waiting := Vector.replicate 4 [] } }

/-- What a RESET of scope SCHEDULE does to the schedule and the lines (R90, R121). -/
def scheduleReset (s : State) : State :=
  let e := emptySchedule s
  { e with lines := mapVec OutLine.scopedReset e.lines }

/-! ## Firing -/

/-- The repeat count an entry starts a burst with (R70, R98); 0 without a repeat and for an unbounded one. -/
def Descriptor.burstCount (d : Descriptor) : Nat :=
  match d.rep with
  | some r => r.count
  | none => 0

/-- The action of a firing, the count and the FIRED record (R94, R95). -/
def fireAction (late : Bool) (e : Entry) (s : State) : Entry × State :=
  let d := e.desc
  let done := applyAction d.action s.lines[d.line]
  let fired := { e with occurrences := satSucc 65535 e.occurrences }
  let t := setLine d.line done.1 s
  (fired,
    if d.reportFirings then
      appendRecord (.fired d.handle d.line d.action late done.2 fired.occurrences) t
    else t)

/-- A removed entry is reported if its report removal is yes (R89). The entry stands in no list any more. -/
def reportRemoved (outcome : RemovalOutcome) (e : Entry) (s : State) : State :=
  if e.desc.reportRemoval then appendRecord (.removed e.desc.handle outcome e.occurrences) s else s

/-- The end of a burst (R97, R98, R104): a TRIGGERED EVERY entry returns to the tail of its waiting list with its
remaining count reloaded; any other is removed with the outcome. -/
def endBurst (outcome : RemovalOutcome) (e : Entry) (s : State) : State :=
  match e.desc.start with
  | .triggered line _ .every => joinWaiting line { e with remaining := e.desc.burstCount } s
  | .triggered _ _ .once => reportRemoved outcome e s
  | .timed _ => reportRemoved outcome e s

/-- An entry, taken out of the armed list, moves on when `k` of its occurrences are disposed of: after a firing with `k`
one (R96 to R98), and when overtaken or late by `k` (R82, R83, R103, R104). -/
def settle (k : Nat) (outcome : RemovalOutcome) (a : ArmedEntry) (s : State) : State :=
  match a.entry.desc.rep with
  | none => endBurst outcome a.entry s
  | some r =>
    if r.count = 0 then arm (a.advance (k * r.period)) s
    else if k < a.entry.remaining then
      arm ({ a with entry := { a.entry with remaining := a.entry.remaining - k } }.advance (k * r.period)) s
    else endBurst outcome a.entry s

/-- An ordinary firing of an armed entry, whole (R94 to R98). -/
def fireOrdinary (a : ArmedEntry) (s : State) : State :=
  let done := fireAction false a.entry (disarm a.handle s)
  settle 1 .complete { a with entry := done.1 } done.2

/-- The entries that may be fired next (R92, R100): of the reached entries, the first on each output line. -/
def firable (now : TimeValue) : List (Fin 8) → List ArmedEntry → List ArmedEntry
  | _, [] => []
  | seen, a :: rest =>
    if a.reached now && !seen.contains a.entry.desc.line then
      a :: firable now (a.entry.desc.line :: seen) rest
    else firable now seen rest

/-- The entries that may be fired now (R92). -/
def State.firable (s : State) : List ArmedEntry := Machine.firable s.ts.now [] s.sched.armed

/-- How many occurrences of a reached entry the current time has come to (R99). -/
def ArmedEntry.dueCount (limit : Int) (a : ArmedEntry) : Nat :=
  match a.entry.desc.rep with
  | none => 1
  | some r => ((limit - a.lin) / r.period).toNat + 1

/-- The trailing edge of a line has run out (R116). -/
def trailingDue (i : Fin 8) (s : State) : Bool := decide (s.lines[i].trailing = some 0)

/-- A trailing edge expires (R116). -/
def endPulse (i : Fin 8) (s : State) : State :=
  setLine i { s.lines[i] with level := s.lines[i].idle, trailing := none } s

/-- What may come next on the line of a reached entry that is first on it: its firing, or the expiry of a trailing edge
that has run out on the line (R117). -/
def nextOnLine (s : State) (a : ArmedEntry) : List (State → State) :=
  if trailingDue a.entry.desc.line s then [fireOrdinary a, endPulse a.entry.desc.line] else [fireOrdinary a]

/-- Every reached entry is fired and moved on, until none is reached (R92, R99). Entries of different lines are taken in
no fixed order (R100), and a trailing edge that has run out expires before the first firing on its line, between any two,
or after the last, when it is left to its own event (R117). -/
def fireAll : Nat → State → State
  | 0, s => s
  | n + 1, s =>
    match s.firable.flatMap (nextOnLine s) with
    | [] => s
    | act :: rest =>
      let chosen := pick act rest s
      fireAll n (chosen.1 chosen.2)

/-- The firings that an anchoring correction brings (R17, R99). Each reached entry fires at most once for each occurrence
the current time has come to, and at most one trailing edge of each line has run out, so their sum bounds what comes. -/
def fireReached (s : State) : State :=
  fireAll
    ((s.sched.armed.map fun a => if a.reached s.ts.now then a.dueCount s.ts.now.lin else 0).sum + 8) s

/-! ## Jumps (section 5.5) -/

/-- An overtaken entry, one at a time (R103, R104, R106). `limit` is the new time on the round of the old time. -/
def overtakeOne (limit : Int) (a : ArmedEntry) (s : State) : State :=
  let out := disarm a.handle s
  let k := a.dueCount limit
  match a.entry.desc.latePolicy with
  | .fire =>
    let done := fireAction true a.entry out
    settle k .complete { a with entry := done.1 } (raise .schedule done.2)
  | .skip => settle k .skipped a (raise .schedule out)

/-- The new time of a forward jump on the round of the old time (R102): a jump to a smaller time value crosses the
wrap. -/
def jumpLimit (old new : TimeValue) : Int := if new.lin < old.lin then new.lin + wrapLin else new.lin

/-- The entries a forward jump overtakes (R102), in armed-list order. -/
def overtakenBy (old new : TimeValue) (l : List ArmedEntry) : List ArmedEntry :=
  l.filter fun a => decide (a.lin ≤ jumpLimit old new)

/-- After a jump an armed entry awaits the wrap exactly if its due time lies before the new time as a plain value (R93). -/
def ArmedEntry.afterJump (new : TimeValue) (a : ArmedEntry) : ArmedEntry :=
  { a with lap := if a.due.lin < new.lin then 1 else 0 }

/-- The schedule takes a jump whole (R101): a forward jump overtakes (R102 to R104), a backward one changes no entry
(R105), and then every armed entry is judged against the wrap (R93). -/
def takeJump (forward : Bool) (old new : TimeValue) (s : State) : State :=
  let handled :=
    if forward then
      (overtakenBy old new s.sched.armed).foldl (fun t a => overtakeOne (jumpLimit old new) a t) s
    else s
  setArmed (handled.sched.armed.map (ArmedEntry.afterJump new)) handled

/-- At the wrap of the seconds count every armed entry is one round nearer (R93). -/
def lapWrapped (s : State) : State :=
  setArmed (s.sched.armed.map fun a => { a with lap := a.lap - 1 }) s

end Sys2Proof.Machine
end

