-- ==== Sys2Proof/Machine/LineRequests.lean ====
section
/-! DEFINITION. Meanings of the requests and the events of the output lines (chapter 6) and of the capture lines
(chapter 7). -/

namespace Sys2Proof.Machine

/-! ## Output lines -/

/-- The mode and the idle level of a line are held (R118, check 3): an entry names the line, or a trailing edge is
pending on it. -/
def lineHeld (i : Fin 8) (s : State) : Bool := s.sched.targets i || s.lines[i].trailing.isSome

/-- The reply to an accepted SET LINE CONFIG (R118). -/
def lineReply (l : OutLine) : Reply := okReply [l.mode.code, levelCode l.idle, levelCode l.level]

/-- The checks and the effect of SET LINE CONFIG (R118). -/
def configureLine (c : Nat × LineMode × Level) (s : State) : Reply × State :=
  if h : c.1 < 8 then
    let i : Fin 8 := ⟨c.1, h⟩
    let l := s.lines[i]
    let new := { l with mode := c.2.1, idle := c.2.2 }
    if new ≠ l ∧ lineHeld i s = true then refuse .state s else (lineReply new, setLine i new s)
  else refuse .range s

/-- SET_LINE_CONFIG (R118). -/
def execSetLineConfig (s : State) : Outcome := take (hasKind 0x10#8) (parsed readLineConfig configureLine) s

/-- The checks and the effect of DRIVE LINE (R119). -/
def driveLine (c : Nat × Level) (s : State) : Reply × State :=
  if h : c.1 < 8 then
    let i : Fin 8 := ⟨c.1, h⟩
    if s.lines[i].mode = .manual then (okReply [levelCode c.2], setLine i { s.lines[i] with level := c.2 } s)
    else refuse .state s
  else refuse .range s

/-- DRIVE_LINE (R119). -/
def execDriveLine (s : State) : Outcome := take (hasKind 0x11#8) (parsed readDriveLine driveLine) s

/-- What QUERY LINES reports (R120). -/
def linesReport (s : State) : List Byte :=
  (s.lines.toList.map outputBlock).flatten ++ (s.caps.toList.map captureBlock).flatten

/-- QUERY_LINES (R120). -/
def execQueryLines (s : State) : Outcome :=
  take (hasKind 0x12#8) (bare fun t => (okReply (linesReport t), t)) s

/-- TRAILING_EDGE_EXPIRY (R116). -/
def execTrailingEdgeExpiry (i : Fin 8) (s : State) : Outcome := event (trailingDue i s) (endPulse i) s

/-! ## Capture lines -/

/-- The checks and the effect of SET CAPTURE CONFIG (R124, R125). A running dead-time timer and the input level stay. -/
def configureCapture (c : Nat × EdgeSelect × TimeValue × Bool × Bool) (s : State) : Reply × State :=
  if h : c.1 < 4 then
    if deadTimeOk c.2.2.1 then
      let i : Fin 4 := ⟨c.1, h⟩
      let new :=
        { s.caps[i] with
          select := c.2.1, deadTime := c.2.2.1.ticks, oneShot := c.2.2.2.1, record := c.2.2.2.2 }
      (okReply (captureConfigBytes new), setCap i new s)
    else refuse .range s
  else refuse .range s

/-- SET_CAPTURE_CONFIG (R124). -/
def execSetCaptureConfig (s : State) : Outcome :=
  take (hasKind 0x13#8) (parsed readCaptureConfig configureCapture) s

/-- The direction of an edge by the level it leads to (R122). -/
def edgeTo : Level → Edge
  | .high => .rise
  | .low => .fall

/-- An edge matches an edge select (R127). -/
def EdgeSelect.accepts : EdgeSelect → Edge → Bool
  | .off, _ => false
  | .rise, e => decide (e = .rise)
  | .fall, e => decide (e = .fall)
  | .both, _ => true

/-- The offset of a triggered entry (Table 4.1). -/
def Descriptor.offset (d : Descriptor) : Nat :=
  match d.start with
  | .triggered _ offset _ => offset
  | .timed _ => 0

/-- A waiting entry armed by an edge at a time (R132): its due time is the timestamp plus its offset, and it awaits the wrap
if that crosses the seconds wrap (R93). -/
def armedAt (stamp : TimeValue) (e : Entry) : ArmedEntry :=
  let total := stamp.lin + e.desc.offset
  { entry := e, due := TimeValue.ofLin total, lap := (total / wrapLin : Nat) }

/-- An accepted edge is offered to the schedule (R132): every entry waiting on the line becomes ARMED. -/
def armWaiting (i : Fin 4) (s : State) : State :=
  s.sched.waiting[i].foldl (fun t e => arm (armedAt s.ts.now e) t) (setWaiting i [] s)

/-- The dead-time timer of a line that has accepted an edge (R128). -/
def CapLine.startDeadTime (c : CapLine) : CapLine :=
  { c with timer := if c.deadTime = 0 then c.timer else some c.deadTime }

/-- An accepted edge is handled whole (R127): dead time, record, arming, one-shot. -/
def acceptEdge (i : Fin 4) (e : Edge) (s : State) : State :=
  let timed := setCap i s.caps[i].startDeadTime s
  let recorded :=
    if s.caps[i].record then appendRecord (.capture i e s.ts.timeState s.disc.state) timed else timed
  let armed := armWaiting i recorded
  if s.caps[i].oneShot then setCap i { armed.caps[i] with select := .off } armed else armed

/-- A sample shows a level at a capture pin (R122, R127): a change of level is an edge, which is accepted or ignored. -/
def takeSample (i : Fin 4) (level : Level) (s : State) : State :=
  if s.caps[i].level = level then s
  else
    let seen := setCap i { s.caps[i] with level := level } s
    if s.caps[i].select.accepts (edgeTo level) && decide (s.caps[i].timer = none) then
      acceptEdge i (edgeTo level) seen
    else seen

/-- The sample of a capture pin at this tick has been taken (R122). -/
def markSampled (i : Fin 4) (s : State) : State := { s with sampled := s.sampled.set i true }

/-- CAPTURE_EDGE (R122, R127). A pin is sampled once per tick: a second sample at one tick is no such event (log
entry 30). -/
def execCaptureEdge (i : Fin 4) (level : Level) (s : State) : Outcome :=
  event (!s.sampled[i]) (fun t => takeSample i level (markSampled i t)) s

/-- The dead-time timer of a line has run out (R128). -/
def deadTimeDue (i : Fin 4) (s : State) : Bool := decide (s.caps[i].timer = some 0)

/-- DEAD_TIME_EXPIRY (R128): the timer becomes idle. -/
def execDeadTimeExpiry (i : Fin 4) (s : State) : Outcome :=
  event (deadTimeDue i s) (setCap i { s.caps[i] with timer := none }) s

end Sys2Proof.Machine
end

