-- ==== Sys2Proof/Machine/LinkEvents.lean ====
section
/-! DEFINITION. Meanings of the events of the link controller (chapter 10): the receiver, breaks and the transmitter. -/

namespace Sys2Proof.Machine

/-! ## Link errors -/

/-- One link error total increased, saturating at 255 (R169). -/
def LinkTotals.bump (cause : LinkError) (t : LinkTotals) : LinkTotals :=
  match cause with
  | .length => { t with length := satSucc 255 t.length }
  | .truncated => { t with truncated := satSucc 255 t.truncated }
  | .crc => { t with crc := satSucc 255 t.crc }
  | .overrun => { t with overrun := satSucc 255 t.overrun }

/-- A frame is lost (R169): the total of its cause, the last link error, and the attention kind LINK. -/
def loseFrame (cause : LinkError) (s : State) : State :=
  raise .link
    { s with link := { s.link with totals := s.link.totals.bump cause, lastError := some cause } }

/-! ## Acceptance (R170, R171) -/

/-- A frame of the outbound queue that holds a reply place (R171). -/
def OutFrame.isReply (f : OutFrame) : Bool := !f.isOwn

/-- The reply places in use (R171): one for each request of the queue, one for each reply that waits. -/
def placesUsed (l : Link) : Nat := l.requests.length + (l.outbound.filter OutFrame.isReply).length

/-- A frame repeats a request (R170): the same KIND, SEQ and CRC. -/
def repeats (kind seq : Byte) (crc : Half) (r : Request) : Bool := r.kind == kind && r.seq == seq && r.crc == crc

/-- The cache entry that a frame repeats (R170, case 3). -/
def cachedReply (r : Request) (l : Link) : Option CacheEntry :=
  l.cache.find? fun e => repeats e.kind e.seq e.crc r

/-- A reply queued on receipt if a reply place is free, or else the frame is lost with cause OVERRUN (R170). -/
def replyOnReceipt (frame : List Byte) (s : State) : State :=
  if placesUsed s.link < Config.replyPlaces then queueFrame (.reply .onReceipt frame) s else loseFrame .overrun s

/-- A frame joins the request queue (R170, case 5). -/
def queueRequest (r : Request) (s : State) : State :=
  { s with link := { s.link with requests := s.link.requests ++ [r] } }

/-- A frame that has passed its CRC check is judged (R170). -/
def acceptFrame (r : Request) (s : State) : State :=
  if s.link.partPending then s
  else if s.link.requests.any (repeats r.kind r.seq r.crc) then s
  else
    match cachedReply r s.link with
    | some e => replyOnReceipt e.frame s
    | none =>
      if Config.requestCapacity ≤ s.link.requests.length then
        replyOnReceipt (replyFrame r.kind r.seq (plainReply .busy)) s
      else if placesUsed s.link < Config.replyPlaces then queueRequest r s
      else loseFrame .overrun s

/-! ## The receiver (R165 to R167) -/

/-- The receiver goes to a state with the bytes collected there. -/
def setReceiver (rx : RxState) (bytes : List Byte) (s : State) : State :=
  { s with link := { s.link with rx := rx, rxBytes := bytes } }

/-- The receiver returns to HUNT with no partial frame. -/
def toHunt (s : State) : State := setReceiver .hunt [] s

/-- How many bytes a frame has from LEN on: LEN itself, what it counts, and the two of the CRC (Table 11.1). -/
def wholeLength (len : Nat) : Nat := len + 3

/-- The bytes that the CRC covers (R167). -/
def coveredBytes (bytes : List Byte) : List Byte := bytes.take (byteAt 0 bytes + 1)

/-- The CRC that a frame carries (R167). -/
def carriedCrc (bytes : List Byte) : Half := BitVec.ofNat 16 (numAt (byteAt 0 bytes + 1) 2 bytes)

/-- The request that the bytes from LEN on spell (Table 11.1). -/
def requestOf (bytes : List Byte) : Request :=
  { kind := bytes.getD 1 0#8, seq := bytes.getD 2 0#8, crc := carriedCrc bytes, payload := (coveredBytes bytes).drop 3 }

/-- CHECK (R167): the CRC is compared, and the frame is lost or judged. -/
def checkFrame (bytes : List Byte) (s : State) : State :=
  if crcOf (coveredBytes bytes) = carriedCrc bytes then acceptFrame (requestOf bytes) (toHunt s)
  else loseFrame .crc (toHunt s)

/-- A LEN that a frame may have (R165). -/
def lengthOk (b : Byte) : Bool := decide (2 ≤ b.toNat ∧ b.toNat ≤ 242)

/-- The receiver takes a byte (Table 10.3). -/
def receive (b : Byte) (s : State) : State :=
  match s.link.rx with
  | .hunt => if b = 0x9D#8 then setReceiver .length [] s else s
  | .length => if lengthOk b then setReceiver .body [b] s else loseFrame .length (toHunt s)
  | .body =>
    let bytes := s.link.rxBytes ++ [b]
    if bytes.length < wholeLength (byteAt 0 bytes) then setReceiver .body bytes s else checkFrame bytes s
  | .check => s

/-- The next byte is the last of the frame being received (R166). -/
def lastByteNext (l : Link) : Bool :=
  decide (l.rx = .body) && decide (wholeLength (byteAt 0 l.rxBytes) ≤ l.rxBytes.length + 1)

/-- BYTE_RECEIVED (R163, R165, R166): while no break lasts, the receiver takes the byte, whichever it is (log entry 19). -/
def execByteReceived (b : Byte) (s : State) : Outcome := event (!s.link.inBreak) (receive b) s

/-- FRAME_RECEIVED (R167, R170): the last CRC byte of a frame. -/
def execFrameReceived (last : Byte) (s : State) : Outcome :=
  event (!s.link.inBreak && lastByteNext s.link) (receive last) s

/-- FRAME_LENGTH_ERROR (R165): a LEN byte outside 2 to 242. -/
def execFrameLengthError (len : Byte) (s : State) : Outcome :=
  event (!s.link.inBreak && decide (s.link.rx = .length) && !lengthOk len) (receive len) s

/-- GAP_LIMIT_EXPIRY (R166): a frame begun is abandoned. -/
def execGapLimitExpiry (s : State) : Outcome :=
  event (!s.link.inBreak && (decide (s.link.rx = .length) || decide (s.link.rx = .body)))
    (fun t => loseFrame .truncated (toHunt t)) s

/-! ## Breaks (R168, R180, R182) -/

/-- A frame in transmission is to stop after the byte in progress (R180). -/
def stopSending (t : Sending) : Sending := { t with stopping := true }

/-- The link reset of a break (R180). -/
def linkReset (s : State) : State :=
  renotify
    { s with
      journal := { s.journal with delivered := 0 }
      link :=
        { s.link with
          rx := .hunt
          rxBytes := []
          requests := []
          outbound := [.announce .linkBreak]
          cache := []
          tx := s.link.tx.map stopSending
          inBreak := true } }

/-- The reply to a RESET of scope PART is in transmission. -/
def sendingPartReply (l : Link) : Bool :=
  match l.tx with
  | some t => t.partReply
  | none => false

/-- A break while PART is pending (R182): the PART reset is completed at once, or at the end of the byte in progress if the
reply had begun. -/
def breakWhilePending (pins : PinSample) (s : State) : State :=
  if sendingPartReply s.link then
    { s with link := { s.link with rx := .hunt, rxBytes := [], tx := s.link.tx.map stopSending, inBreak := true } }
  else fullReset .partRequest true pins s

/-- LINK_BREAK (R168, R180, R182): one link reset for each break. -/
def execLinkBreak (pins : PinSample) (s : State) : Outcome :=
  event (!s.link.inBreak) (fun t => if t.link.partPending then breakWhilePending pins t else linkReset t) s

/-- RXD is high again after a break (R168). -/
def endBreak (s : State) : State := { s with link := { s.link with rx := .hunt, rxBytes := [], inBreak := false } }

/-- BREAK_RELEASE (R168). -/
def execBreakRelease (s : State) : Outcome := event s.link.inBreak endBreak s

/-! ## The transmitter (R164) -/

/-- A frame taken from the outbound queue begins. -/
def beginFrame (rest : List OutFrame) (frame : List Byte) (partReply : Bool) (s : State) : State :=
  { s with link := { s.link with outbound := rest, tx := some ⟨frame, partReply, false⟩ } }

/-- A frame of the part's own begins: it takes the unsolicited sequence, which increases (R164). -/
def beginOwn (rest : List OutFrame) (kind : Byte) (payload : List Byte) (s : State) : State :=
  let t := beginFrame rest (mkFrame kind s.link.unsolicitedSeq payload) false s
  { t with link := { t.link with unsolicitedSeq := s.link.unsolicitedSeq + 1 } }

/-- The content of a NOTICE (R157, Table 11.8): the notified kinds as they were before they moved, the rest after. -/
def noticePayload (notified : Vector Bool 7) (s : State) : List Byte :=
  [kindSetByte notified, kindSetByte s.attn.outstanding, s.ts.timeState.code, s.disc.state.code]
    ++ beBytes 2 s.ts.era.toNat ++ beBytes 2 s.journal.records.length

/-- The content of an ANNOUNCE (R181, Table 11.8). -/
def announcePayload (cause : AnnounceCause) (s : State) : List Byte :=
  [cause.code] ++ beBytes 2 Config.partCode ++ beBytes 1 Config.revision ++ [s.ts.timeState.code]
    ++ beBytes 2 s.ts.era.toNat

/-- The frame at the head of the outbound queue begins (R164, R157, R181); a NOTICE or an ANNOUNCE frees the notice place,
and the attention unit judges it again (R156). -/
def beginHead (s : State) : State :=
  match s.link.outbound with
  | [] => s
  | .reply origin frame :: rest => beginFrame rest frame (decide (origin = .partReset)) s
  | .notice :: rest =>
    let moved := notifyRaised s
    judgeNotice (beginOwn rest 0x40#8 (noticePayload s.attn.toNotify moved) moved)
  | .announce cause :: rest => judgeNotice (beginOwn rest 0x41#8 (announcePayload cause s) s)

/-- The transmitter may begin a frame (R164, R168): it is idle, no break lasts, and a frame waits. -/
def canBegin (l : Link) : Bool := l.tx.isNone && !l.inBreak && !l.outbound.isEmpty

/-- FRAME_TRANSMIT_START (R164). -/
def execFrameTransmitStart (s : State) : Outcome := event (canBegin s.link) beginHead s

/-- The transmitter becomes idle. -/
def idleTransmitter (s : State) : State := { s with link := { s.link with tx := none } }

/-- The frame in transmission has ended (R164, R179): the reply to a RESET of scope PART completes the PART reset, and
otherwise the next frame begins if there is one. -/
def endFrame (pins : PinSample) (s : State) : State :=
  if sendingPartReply s.link then fullReset .partRequest s.link.inBreak pins s
  else
    let idle := idleTransmitter s
    if canBegin idle.link then beginHead idle else idle

/-- A frame is in transmission, and a break stops it or not. -/
def isSending (stopping : Bool) (l : Link) : Bool :=
  match l.tx with
  | some t => t.stopping == stopping
  | none => false

/-- FRAME_TRANSMIT_END (R164, R179). -/
def execFrameTransmitEnd (pins : PinSample) (s : State) : Outcome :=
  event (isSending false s.link) (endFrame pins) s

/-- The transmitter has stopped after the byte in progress (R180, R182). -/
def stopTransmitter (pins : PinSample) (s : State) : State :=
  if sendingPartReply s.link then fullReset .partRequest s.link.inBreak pins s else idleTransmitter s

/-- TRANSMITTER_STOPS (R180, R182). -/
def execTransmitterStops (pins : PinSample) (s : State) : Outcome :=
  event (isSending true s.link) (stopTransmitter pins) s

end Sys2Proof.Machine
end

