-- ==== Sys2Proof/Machine/TimescaleOps.lean ====
section
/-! DEFINITION. The timescale: discontinuities (section 1.2), second boundaries (1.3 to 1.5), free running and anchoring (1.5
and 1.7), acquisition (1.8) and path switches (1.9). -/

namespace Sys2Proof.Machine

/-- The timescale replaced. -/
def setTs (t : Timescale) (s : State) : State := { s with ts := t }

/-- The discipline controller replaced. -/
def setDisc (d : Discipline) (s : State) : State := { s with disc := d }

/-- A change of the discipline state or of the selected path is handed on (R63): a DISCIPLINE record, then the attention
kind. -/
def handOnDiscipline (old : DiscState) (s : State) : State :=
  raise .discipline (appendRecord (.discipline old s.disc.state s.disc.selected) s)

/-- A discontinuity is declared (R4): the era increases, an ERA record is appended and ERA is raised. The jump is handed to
the schedule separately. -/
def declareEra (cause : EraCause) (s : State) : State :=
  let t := setTs { s.ts with era := s.ts.era + 1 } s
  raise .era (appendRecord (.era t.ts.era cause) t)

/-- The timescale is anchored to the selected path (R16, R21). -/
def anchored (s : State) : Bool := decide (s.disc.state = .locked) && !s.ts.switchPending

/-! ## Advance -/

/-- The current time moves forward by less than a second. Passing 124,999,999 it wraps, which makes a second boundary due
(R1, R6); at the wrap of the seconds count the armed entries come one round nearer (R93). The model's choice (log entry 28):
a tick inserted at tick count 124,999,999 brings the time to tick 1, and the boundary is carried out there. -/
def advanceBy (ticks : Nat) (s : State) : State :=
  let now := s.ts.now
  if now.tick + ticks < Config.ticksPerSecond then
    setTs { s.ts with now := ⟨now.sec, now.tick + ticks⟩ } s
  else
    let t := setTs
      { s.ts with
        now := ⟨(now.sec + 1) % Config.secondsModulus, now.tick + ticks - Config.ticksPerSecond⟩
        boundaryDue := true } s
    if Config.secondsModulus ≤ now.sec + 1 then lapWrapped t else t

/-- The combined count N of a free-running second (R12). -/
def FreeRun.count (r : FreeRun) : Int := r.slew - r.freq

/-- The tick count at or past which the next adjustment falls (R12; log entry 8 for a second entered in its middle). -/
def FreeRun.nextAt (r : FreeRun) : Nat :=
  r.base + (r.done + 1) * (Config.ticksPerSecond - r.base) / (r.count.natAbs + 1)

/-- An adjustment falls at this local tick (R12). -/
def FreeRun.adjusts (r : FreeRun) (tick : Nat) : Bool :=
  decide (r.done < r.count.natAbs) && decide (r.nextAt ≤ tick)

/-- How many ticks of timescale advance this local tick makes while running free (R12): two or none at an adjustment, one
otherwise. -/
def FreeRun.advance (r : FreeRun) (tick : Nat) : Nat :=
  if r.adjusts tick then (if 0 < r.count then 2 else 0) else 1

/-- One local tick at the timescale (R1, R12, R16, R17). -/
def tickTimescale (s : State) : State :=
  match s.ts.hold with
  | some left => setTs { s.ts with hold := some (left - 1) } s
  | none =>
    if anchored s then advanceBy 1 s
    else
      let r := s.ts.freeRun
      let tick := s.ts.now.tick
      advanceBy (r.advance tick)
        (setTs { s.ts with freeRun := { r with done := if r.adjusts tick then r.done + 1 else r.done } } s)

/-! ## Free running -/

/-- The whole ticks of frequency correction for `span` ticks of the timescale, toward zero, and the remainder carried on
(R12, R65); an estimate of one ppb is 10^-9 tick for each tick. -/
def freqShare (estimate remainder : Int) (span : Nat) : Int × Int :=
  let total := estimate * span + remainder
  (total.tdiv 1000000000, total.tmod 1000000000)

/-- The adjustments of a free-running second that have yet to be made, signed as its combined count (R12). -/
def FreeRun.toCome (r : FreeRun) : Int :=
  if 0 ≤ r.count then max 0 (r.count - r.done) else min 0 (r.count + r.done)

/-- The least and the greatest part of the slew that can be left (R14; log entry 4). What is left of the slew and of the
frequency correction makes up the adjustments to come, and neither is more than its whole. Before the first tick of the span
all of both is left; when the second has ended nothing is left that the two would cancel. -/
def FreeRun.leftBounds (r : FreeRun) (tick : Nat) (ended : Bool) : Int × Int :=
  let low := max (min 0 r.slew) (r.toCome + min 0 r.freq)
  let high := min (max 0 r.slew) (r.toCome + max 0 r.freq)
  if ended then (max low (min 0 r.toCome), min high (max 0 r.toCome))
  else if r.done = 0 ∧ tick = r.base then (r.slew, r.slew)
  else (low, high)

/-- What a free-running second has not yet applied of its slew, and of its frequency correction (R14, R23): exact where its
count leaves no choice, and a free value within the bounds where the two have been combined (log entry 4). -/
def unappliedParts (s : State) : (Int × Int) × State :=
  let r := s.ts.freeRun
  let bounds := r.leftBounds s.ts.now.tick s.ts.boundaryDue
  if bounds.1 = bounds.2 then ((bounds.1, bounds.1 - r.toCome), s)
  else
    let left := max bounds.1 (min bounds.2 (Config.unapplied s.choices))
    ((left, left - r.toCome), { s with choices := s.choices + 1 })

/-- The slew of a free-running second is abandoned (R23); the frequency correction not yet applied goes on over the rest of
the second. -/
def abandonFreeSlew (s : State) : State :=
  if s.ts.freeRun.slew = 0 then s
  else
    let kept := unappliedParts s
    setTs { kept.2.ts with freeRun := ⟨0, kept.1.2, s.ts.now.tick, 0⟩ } kept.2

/-- The timescale stops being anchored in the middle of a second (R14, R17, R65): a hold ends, the unapplied part of the
amount goes on in the free-running time, and the frequency correction is in proportion to the rest of the second. -/
def leaveAnchoring (s : State) : State :=
  let tick := s.ts.now.tick
  let span := if s.ts.boundaryDue then 0 else Config.ticksPerSecond - tick
  let share := freqShare s.disc.freqEstimate s.ts.freqRemainder span
  setTs
    { s.ts with
      hold := none
      freqRemainder := share.2
      freeRun := ⟨s.ts.slewLeft, share.1, tick, 0⟩
      slewLeft := 0
      slewLost := 0 } s

/-! ## Second boundaries -/

/-- At a second boundary the part of the amount that has not reached the phase offset is added to it (R13). -/
def finishAmount (s : State) : State :=
  if anchored s then
    setTs
      { s.ts with phaseOffset := foldTicks (s.ts.phaseOffset + s.ts.slewLeft), slewLeft := 0, slewLost := 0 } s
  else s

/-- The slew amount of the second that begins is taken (R11), and with it the combined count of a free-running second
(R12, R65). -/
def takeSlewAmount (s : State) : State :=
  let amount := clampMag s.ts.remainingSlew s.disc.config.slewRate
  let taken := { s.ts with remainingSlew := s.ts.remainingSlew - amount, slewAmount := amount }
  if anchored s then setTs { taken with slewLeft := amount, slewLost := 0 } s
  else
    let share := freqShare s.disc.freqEstimate s.ts.freqRemainder Config.ticksPerSecond
    setTs { taken with freqRemainder := share.2, freeRun := ⟨amount, share.1, 0, 0⟩ } s

/-- The staged load taken as the seconds count (R8): it becomes absent and the time SET. -/
def loadSeconds (v : Nat) (s : State) : State :=
  setTs { s.ts with now := ⟨v, s.ts.now.tick⟩, stagedLoad := none, timeState := .set } s

/-- A staged load applied at an ordinary second boundary (R8), whose seconds the current time already shows: a
discontinuity of cause LOAD from UNSET or to another value, with the direction of R5. -/
def applyLoad (s : State) : State :=
  match s.ts.stagedLoad with
  | none => s
  | some v =>
    let natural := s.ts.now
    let loaded := loadSeconds v s
    if s.ts.timeState = .unset ∨ v ≠ natural.sec then
      takeJump (decide (s.ts.timeState = .set) && decide (natural.sec < v)) natural loaded.ts.now
        (declareEra .load loaded)
    else loaded

/-- A second boundary is carried out (R6): the staged load, then the slew amount. -/
def carryBoundary (s : State) : State :=
  takeSlewAmount (applyLoad (finishAmount (setTs { s.ts with boundaryDue := false } s)))

/-! ## Anchoring (section 1.7) -/

/-- How far the phase offset moves at a step (R13): the amount over the steps per second, toward zero, with the parts lost
to rounding moved as whole ticks, and never more than is left of the amount. Also the rounding parts kept. -/
def slewShare (amount left lost : Int) (steps : Nat) : Int × Int :=
  let gathered := lost + amount.tmod steps
  (clampWithin (amount.tdiv steps + gathered.tdiv steps) left, gathered.tmod steps)

/-- The share of the slew that a step moves into the phase offset (R13). -/
def moveShare (steps : Nat) (s : State) : State :=
  let t := s.ts
  let share := slewShare t.slewAmount t.slewLeft t.slewLost steps
  setTs
    { t with
      phaseOffset := foldTicks (t.phaseOffset + share.1)
      slewLeft := t.slewLeft - share.1
      slewLost := share.2 } s

/-- The signed distance from the current time to the anchored value (R16): the nearest time value whose tick count is the
nominal position plus the phase offset. -/
def anchorDistance (nominal : Nat) (s : State) : Int :=
  foldTicks ((nominal : Int) + s.ts.phaseOffset - s.ts.now.tick)

/-- An anchoring correction (R17). The model's choice (log entry 31): at the instant of a tick wrap, ahead of the second
boundary that is due, it moves the time first; after a forward correction the boundary, with its staged load, is carried out
at the corrected tick count. The model's choice (log entry 33): an armed entry that this instant has reached and that has not
yet fired fires at the corrected time after a forward correction (R91), and after a backward one is no longer reached and
fires when the time comes to its due time again. -/
def correct (distance : Int) (s : State) : State :=
  let free := setTs { s.ts with hold := none } s
  let tick : Int := s.ts.now.tick
  if 0 < distance then
    let moved := fireReached (advanceBy distance.toNat free)
    if (Config.ticksPerSecond : Int) ≤ tick + distance then carryBoundary moved else moved
  else if 0 ≤ tick + distance then
    setTs { free.ts with now := ⟨s.ts.now.sec, (tick + distance).toNat⟩ } free
  else
    setTs { free.ts with now := ⟨s.ts.now.sec, 0⟩, hold := some (-(tick + distance)).toNat } free

/-- A step of the selected path at which no fault is charged anchors the timescale (R13, R16). -/
def anchorStep (p : Path) (s : State) : State :=
  let m := s.mon p
  let t := moveShare m.config.stepsPerSecond s
  correct (anchorDistance (m.stepsSinceMark * m.config.period % Config.ticksPerSecond) t) t

/-! ## Acquisition (section 1.8) and path switches (section 1.9) -/

/-- The measured offset at a marked step (R18). -/
def measuredOffset (s : State) : Int := foldTicks s.ts.now.tick

/-- The controller enters LOCKED at the marked step that completes an acquisition (R57). -/
def enterLocked (s : State) : State :=
  let old := s.disc.state
  handOnDiscipline old
    (setDisc { s.disc with state := .locked, holdoverTimer := none, returnState := .free } s)

/-- The slew in progress is abandoned and the timescale is anchored from here on (R14, R19, R20). -/
def beginAnchored (phase remaining : Int) (s : State) : State :=
  setTs
    { s.ts with
      phaseOffset := phase
      remainingSlew := remaining
      slewAmount := 0
      slewLeft := 0
      slewLost := 0
      freeRun := ⟨0, 0, 0, 0⟩
      hold := none
      switchPending := false } s

/-- The outcome of an acquisition is a slew (R19). -/
def acquiresBySlew (s : State) : Bool :=
  decide (s.disc.config.acquireMode = .alwaysSlew)
    || decide ((measuredOffset s).natAbs ≤ s.disc.config.acquireSlewLimit)

/-- The second that the jump of an acquisition alone would give (R20). -/
def jumpSecond (s : State) : Nat :=
  if measuredOffset s < 0 then (s.ts.now.sec + 1) % Config.secondsModulus else s.ts.now.sec

/-- The direction of an acquisition jump (R5). -/
def acquireForward (s : State) : Bool :=
  match s.ts.stagedLoad with
  | none => decide (measuredOffset s < 0)
  | some v =>
    decide (s.ts.timeState = .set) &&
      (decide (jumpSecond s < v) || (decide (v = jumpSecond s) && decide (measuredOffset s < 0)))

/-- The acquisition jump (R20): the marked step becomes a second boundary, with the staged load applied there. The ERA
record stands ahead of the DISCIPLINE record, and both ahead of the records of the jump (R63). -/
def acquireJump (s : State) : State :=
  let old := s.ts.now
  let sec := jumpSecond s
  let based := beginAnchored 0 0 s
  let set := setTs { based.ts with now := ⟨sec, 0⟩, boundaryDue := false } based
  let loaded := match s.ts.stagedLoad with
    | none => set
    | some v => loadSeconds v set
  let cause := if s.ts.stagedLoad.isSome then EraCause.loadAcquire else EraCause.acquire
  takeJump (acquireForward s) old loaded.ts.now (enterLocked (declareEra cause loaded))

/-- A marked step completes the acquisition (R18 to R20, R57). -/
def completeAcquisition (s : State) : State :=
  if acquiresBySlew s then
    enterLocked (beginAnchored (measuredOffset s) (-(measuredOffset s)) s)
  else acquireJump s

/-- The measurement after a path switch while LOCKED (R21): the offset becomes the phase offset, and the difference is
slewed back out. The unapplied part of the amount goes on at the phase offset (R14). -/
def measureSwitch (s : State) : State :=
  let offset := measuredOffset s
  let diff := foldTicks (offset - s.ts.phaseOffset)
  let left := unappliedParts s
  setTs
    { left.2.ts with
      phaseOffset := offset
      remainingSlew := clampMag (s.ts.remainingSlew - diff) Config.halfSecond
      slewLeft := left.1.1
      slewLost := 0
      freeRun := ⟨0, 0, 0, 0⟩
      switchPending := false } left.2

/-- What an accepted step of the selected path does at the timescale when no fault is charged at it (R37): it anchors
(R16), measures a switch (R21) or completes an acquisition (R18). -/
def handStep (p : Path) (marked : Bool) (s : State) : State :=
  match s.disc.state with
  | .locked =>
    if s.ts.switchPending then (if marked then measureSwitch s else s) else anchorStep p s
  | .acquiring => if marked then completeAcquisition s else s
  | .free => s
  | .holdover => s

end Sys2Proof.Machine
end

