-- ==== Sys2Proof/Machine/DisciplineOps.lean ====
section
/-! DEFINITION. The discipline controller: selection (section 3.2), the discipline states (3.3), the holdover timer (3.4) and
the frequency estimate (3.6). -/

namespace Sys2Proof.Machine

/-- The path a policy prefers (Table 3.3). -/
def Policy.preferred : Policy → Option Path
  | .preferA => some .a
  | .preferB => some .b
  | .onlyA => some .a
  | .onlyB => some .b
  | .none => Option.none

/-- The paths a policy allows (Table 3.3). -/
def Policy.allows : Policy → Path → Bool
  | .preferA, _ => true
  | .preferB, _ => true
  | .onlyA, p => decide (p = .a)
  | .onlyB, p => decide (p = .b)
  | .none, _ => false

/-- A path state in which a path can be trusted: GOOD or SUSPECT (R52). -/
def PathState.trusted (st : PathState) : Bool := decide (st = .good ∨ st = .suspect)

/-- A path is eligible (R52). -/
def eligible (s : State) (p : Path) : Bool := (s.mon p).state.trusted && s.disc.config.policy.allows p

/-- A path is selectable anew (R52). -/
def selectable (s : State) (p : Path) : Bool :=
  decide ((s.mon p).state = .good) && s.disc.config.policy.allows p

/-- Step 1 of an evaluation (R53): a selected path that is not eligible is lost. -/
def keepEligible (s : State) : Option Path := s.disc.selected.filter (eligible s)

/-- Step 2 of an evaluation (R53): from a SUSPECT path to the other if that is selectable. -/
def leaveSuspect (s : State) (sel : Option Path) : Option Path :=
  sel.map fun p =>
    if (s.mon p).state = .suspect ∧ selectable s (otherPath p) then otherPath p else p

/-- Step 3 of an evaluation (R53): with revertive on, back to the preferred path if that is GOOD. -/
def revert (s : State) (sel : Option Path) : Option Path :=
  sel.map fun p =>
    match s.disc.config.policy.preferred with
    | some q => if s.disc.config.revertive ∧ (s.mon q).state = .good then q else p
    | none => p

/-- Step 4 of an evaluation (R53): with no path selected, the preferred path, or else the other, if selectable. -/
def selectAnew (s : State) (sel : Option Path) : Option Path :=
  match sel with
  | some p => some p
  | none =>
    match s.disc.config.policy.preferred with
    | none => none
    | some q =>
      if selectable s q then some q
      else if selectable s (otherPath q) then some (otherPath q)
      else none

/-- The selected path after the four steps of an evaluation (R53). -/
def chosenPath (s : State) : Option Path :=
  selectAnew s (revert s (leaveSuspect s (keepEligible s)))

/-- The outcome gained (R54, R55). -/
def gainPath (q : Path) (s : State) : State :=
  handOnDiscipline s.disc.state
    (setDisc
      { s.disc with
        state := .acquiring
        selected := some q
        returnState := if s.disc.state = .holdover then .holdover else .free } s)

/-- The timescale stops anchoring if it was anchored (R14, R58, R59). -/
def stopAnchoring (s : State) : State := if anchored s then leaveAnchoring s else s

/-- The outcome switched (R56, R58). -/
def switchPath (q : Path) (s : State) : State :=
  let old := s.disc.state
  let left := if old = .locked then (let t := stopAnchoring s; setTs { t.ts with switchPending := true } t) else s
  handOnDiscipline old (setDisc { left.disc with selected := some q } left)

/-- The outcome lost, by path or by policy (R56, R59). -/
def losePath (byPath : Bool) (s : State) : State :=
  match s.disc.state with
  | .acquiring =>
    match s.disc.returnState with
    | .free =>
      handOnDiscipline .acquiring
        (setDisc { s.disc with state := .free, selected := none, returnState := .free, holdoverTimer := none } s)
    | .holdover =>
      handOnDiscipline .acquiring
        (setDisc { s.disc with state := .holdover, selected := none, returnState := .free } s)
  | .locked =>
    let t := stopAnchoring s
    let u := setTs { t.ts with switchPending := false } t
    if byPath then
      handOnDiscipline .locked
        (setDisc
          { u.disc with
            state := .holdover
            selected := none
            returnState := .free
            holdoverTimer := if u.disc.config.holdoverLimit = 0 then none else some 0 } u)
    else
      handOnDiscipline .locked
        (setDisc { u.disc with state := .free, selected := none, returnState := .free, holdoverTimer := none } u)
  | .free => handOnDiscipline .free (setDisc { s.disc with selected := none } s)
  | .holdover => handOnDiscipline .holdover (setDisc { s.disc with selected := none } s)

/-- One evaluation of the selection (R53). -/
def evaluate (s : State) : State :=
  match s.disc.selected, chosenPath s with
  | none, none => s
  | none, some q => gainPath q s
  | some p, some q => if p = q then s else switchPath q s
  | some p, none => losePath (!(s.mon p).state.trusted) s

/-- The holdover timer expires (R61): HOLDOVER falls to FREE; in ACQUIRING the return state becomes FREE. -/
def expireHoldover (s : State) : State :=
  match s.disc.state with
  | .holdover =>
    handOnDiscipline .holdover (setDisc { s.disc with state := .free, returnState := .free, holdoverTimer := none } s)
  | .acquiring => setDisc { s.disc with returnState := .free, holdoverTimer := none } s
  | .free => setDisc { s.disc with holdoverTimer := none } s
  | .locked => setDisc { s.disc with holdoverTimer := none } s

/-- The holdover timer has reached the limit in force (R61). -/
def holdoverDue (d : Discipline) : Bool :=
  match d.holdoverTimer with
  | some count => decide (d.config.holdoverLimit ≠ 0) && decide (secondsTicks d.config.holdoverLimit ≤ count)
  | none => false

/-- What a new configuration does to the holdover timer (R51); `s` already holds the configuration. -/
def applyHoldoverLimit (s : State) : State :=
  match s.disc.holdoverTimer with
  | some _ =>
    if s.disc.config.holdoverLimit = 0 then setDisc { s.disc with holdoverTimer := none } s
    else if holdoverDue s.disc then expireHoldover s
    else s
  | none =>
    if s.disc.config.holdoverLimit ≠ 0 ∧
        (s.disc.state = .holdover ∨ (s.disc.state = .acquiring ∧ s.disc.returnState = .holdover)) then
      setDisc { s.disc with holdoverTimer := some 0 } s
    else s

/-- The measurement of a clean second of `ticks` local ticks, in ppb (R64). -/
def freqMeasurement (ticks : Nat) : Int := ((ticks : Int) - Config.ticksPerSecond) * 8

/-- The frequency estimate moves one eighth of the way toward a measurement (R64). -/
def moveEstimate (estimate measurement : Int) : Int := estimate + (measurement - estimate).tdiv 8

/-- A clean second of the selected path is handed to the controller (R37, R64). -/
def handCleanSecond (ticks : Nat) (s : State) : State :=
  if s.disc.state = .locked then
    setDisc { s.disc with freqEstimate := moveEstimate s.disc.freqEstimate (freqMeasurement ticks) } s
  else s

end Sys2Proof.Machine
end

