-- ==== Sys2Proof/Machine/MonitorOps.lean ====
section
/-! DEFINITION. The reference monitors: the six checks (section 2.4), the path states (2.6) and what a monitor hands on
(2.5). -/

namespace Sys2Proof.Machine

/-- A change of path state, already made, is handed on (R37): a PATH record, the attention kind, and the evaluation of the
selection. -/
def handOnPath (p : Path) (old : PathState) (fault : Option FaultKind) (s : State) : State :=
  evaluate
    (raise .path
      (appendRecord (.path p old (s.mon p).state fault (decide (s.disc.selected = some p))) s))

/-- The monitor's items cleared, as on entering ABSENT, DISABLED and FAILED (Table 2.4, R42): configuration, totals and
last fault are kept. -/
def Monitor.cleared (st : PathState) (m : Monitor) : Monitor :=
  { m with
    state := st
    refInstant := none
    window := none
    stepsSinceMark := 0
    previousMark := none
    lastAcceptedMark := none
    firstMarkPending := false
    faultSinceMark := false
    cleanCount := 0
    suspectCount := 0
    silence := none
    holdOff := none }

/-- One total increased, saturating at 255 (R36). -/
def FaultTotals.bump (k : FaultKind) (t : FaultTotals) : FaultTotals :=
  match k with
  | .earlyStep => { t with earlyStep := satSucc 255 t.earlyStep }
  | .missingStep => { t with missingStep := satSucc 255 t.missingStep }
  | .missingMark => { t with missingMark := satSucc 255 t.missingMark }
  | .residue => { t with residue := satSucc 255 t.residue }
  | .rate => { t with rate := satSucc 255 t.rate }
  | .skew => { t with skew := satSucc 255 t.skew }

/-- Entering FAILED (R42): the hold-off timer starts if auto restart is on. -/
def Monitor.toFailed (m : Monitor) : Monitor :=
  { m.cleared .failed with
    holdOff := if m.config.autoRestart then some (secondsTicks m.config.holdOffSeconds) else none }

/-- A path moves to another state and the change is handed on. -/
def changePath (p : Path) (m : Monitor) (fault : Option FaultKind) (s : State) : State :=
  handOnPath p (s.mon p).state fault (setMon p m s)

/-- A fault is charged (R36): total, last fault, fault since mark, and the state rule (R39 to R41). -/
def charge (p : Path) (k : FaultKind) (s : State) : State :=
  let m0 := s.mon p
  let m := { m0 with
    totals := m0.totals.bump k
    lastFault := some ⟨k, s.ts.now⟩
    faultSinceMark := true }
  match m.state with
  | .qualifying => setMon p { m with cleanCount := 0 } s
  | .good =>
    if m.config.failFaults ≤ 1 then changePath p m.toFailed (some k) s
    else changePath p { m with state := .suspect, suspectCount := 1, cleanCount := 0 } (some k) s
  | .suspect =>
    if m.config.failFaults ≤ m.suspectCount + 1 then changePath p m.toFailed (some k) s
    else setMon p { m with suspectCount := m.suspectCount + 1, cleanCount := 0 } s
  | .disabled => s
  | .absent => s
  | .failed => s

/-- The path has failed: the rest of the event's handling is abandoned (R36). -/
def hasFailed (p : Path) (s : State) : Bool := decide ((s.mon p).state = .failed)

/-- A charge that is made only while the path has not failed and the check does not pass (R36). -/
def chargeUnless (p : Path) (passes : Bool) (k : FaultKind) (s : State) : State :=
  if passes || hasFailed p s then s else charge p k s

/-- One more step or stand-in since the mark, with the MISSING_MARK check (R32). -/
def countStep (p : Path) (s : State) : State :=
  let m := s.mon p
  let t := setMon p { m with stepsSinceMark := m.stepsSinceMark + 1 } s
  if m.config.stepsPerSecond < m.stepsSinceMark + 1 then
    let c := charge p .missingMark t
    if hasFailed p c then c
    else setMon p { c.mon p with stepsSinceMark := 1, previousMark := none } c
  else t

/-- The ticks of the step window (R30). -/
def PathConfig.windowTicks (c : PathConfig) : Nat := c.period + c.tolerance

/-- A step comes too soon after the reference instant (R29). -/
def isEarly (m : Monitor) (at_ : Nat) : Bool :=
  match m.refInstant with
  | some ref => decide (at_ < ref + (m.config.period - m.config.tolerance))
  | none => false

/-- The first step in ABSENT starts qualification (R38). -/
def Monitor.startQualifying (marked : Bool) (at_ : Nat) (m : Monitor) : Monitor :=
  { m with
    state := .qualifying
    refInstant := some at_
    window := some m.config.windowTicks
    silence := some Config.silenceLimit
    cleanCount := 0
    suspectCount := 0
    faultSinceMark := false
    stepsSinceMark := if marked then 0 else 1
    previousMark := if marked then some at_ else none
    lastAcceptedMark := if marked then some at_ else none
    firstMarkPending := !marked }

/-- What every accepted step does first (R30, points 1 to 3). -/
def Monitor.accept (at_ : Nat) (m : Monitor) : Monitor :=
  { m with
    refInstant := some at_
    window := some m.config.windowTicks
    silence := if m.state = .qualifying then some Config.silenceLimit else m.silence }

/-- The RESIDUE check passes (R33). -/
def residueOk (m : Monitor) : Bool := decide (m.stepsSinceMark + 1 = m.config.stepsPerSecond)

/-- The interval that the RATE check judges (R33): it is made only if the RESIDUE check was made and passed and the
previous mark is present. -/
def rateInterval (m : Monitor) (at_ : Nat) : Option Nat :=
  if !m.firstMarkPending && residueOk m then m.previousMark.map fun prev => at_ - prev else none

/-- An interval passes the RATE check (R33). -/
def rateOk (interval : Nat) : Bool :=
  decide (Config.ticksPerSecond - Config.rateLimit ≤ interval ∧ interval ≤ Config.ticksPerSecond + Config.rateLimit)

/-- The SKEW check passes or is not made (R34). -/
def skewOk (p : Path) (s : State) : Bool :=
  match s.disc.selected with
  | some q =>
    if q = p then true
    else
      match (s.mon q).lastAcceptedMark with
      | some mark => decide ((foldTicks ((s.elapsed : Int) - mark)).natAbs ≤ (s.mon p).config.skewLimit)
      | none => true
  | none => true

/-- The checks of an accepted marked step, in order (R33, R34, R36). `m` is the monitor as the step found it. -/
def markChecks (p : Path) (m : Monitor) (s : State) : State :=
  let s1 := chargeUnless p (m.firstMarkPending || residueOk m) .residue s
  let s2 := chargeUnless p (match rateInterval m s.elapsed with | some i => rateOk i | none => true) .rate s1
  chargeUnless p (skewOk p s2) .skew s2

/-- The items an accepted marked step sets last (R30, point 5). -/
def Monitor.marked (at_ : Nat) (m : Monitor) : Monitor :=
  { m with
    stepsSinceMark := 0
    previousMark := some at_
    lastAcceptedMark := some at_
    firstMarkPending := false
    faultSinceMark := false }

/-- The path moves to GOOD (R39, R41). -/
def Monitor.toGood (m : Monitor) : Monitor :=
  { m with state := .good, cleanCount := 0, suspectCount := 0, silence := none }

/-- A clean second of `ticks` local ticks (R35): the frequency estimate of the selected path, and the clean count with its
state rule (R39, R41). The model's choice (log entry 32): whether the path is the selected one (R37) is read before the state
rule is applied, so a clean second that itself makes its path GOOD and thereby selected does not update the estimate. -/
def cleanSecond (p : Path) (ticks : Nat) (s : State) : State :=
  let t := if s.disc.selected = some p then handCleanSecond ticks s else s
  let m := t.mon p
  match m.state with
  | .qualifying =>
    if m.config.qualifyMarks ≤ m.cleanCount + 1 then changePath p m.toGood none t
    else setMon p { m with cleanCount := m.cleanCount + 1 } t
  | .suspect =>
    if m.config.recoverMarks ≤ m.cleanCount + 1 then changePath p m.toGood none t
    else setMon p { m with cleanCount := m.cleanCount + 1 } t
  | .good => t
  | .disabled => t
  | .absent => t
  | .failed => t

/-- The local ticks of a clean second, if the marked step is one (R35): `m` is the monitor as the step found it, and `after`
the monitor once the checks have been made. -/
def cleanInterval (m after : Monitor) (at_ : Nat) : Option Nat :=
  if m.faultSinceMark || after.faultSinceMark then none
  else (rateInterval m at_).filter rateOk

/-- An accepted step that charged no fault is handed to the timescale while its path was and is the selected path (R37). -/
def handToTimescale (p : Path) (marked wasSelected faulted : Bool) (s : State) : State :=
  if wasSelected && !faulted && decide (s.disc.selected = some p) then handStep p marked s else s

/-- An accepted marked step (R30 to R37). -/
def markedStep (p : Path) (s : State) : State :=
  let m := s.mon p
  let wasSelected := decide (s.disc.selected = some p)
  -- the flag is lowered while the checks run, so that it shows whether one of them charged a fault
  let checked := markChecks p m (setMon p { m.accept s.elapsed with faultSinceMark := false } s)
  if hasFailed p checked then checked
  else
    let faulted := (checked.mon p).faultSinceMark
    let counted := setMon p ((checked.mon p).marked s.elapsed) checked
    let cleaned := match cleanInterval m (checked.mon p) s.elapsed with
      | some ticks => cleanSecond p ticks counted
      | none => counted
    handToTimescale p true wasSelected faulted cleaned

/-- An accepted unmarked step (R30, R32, R37). -/
def unmarkedStep (p : Path) (s : State) : State :=
  let m := s.mon p
  let wasSelected := decide (s.disc.selected = some p)
  let faulted := decide (m.config.stepsPerSecond < m.stepsSinceMark + 1)
  handToTimescale p false wasSelected faulted (countStep p (setMon p (m.accept s.elapsed) s))

/-- A step in QUALIFYING, GOOD or SUSPECT (R29, R30): charged EARLY_STEP and discarded, or accepted. -/
def judgeStep (p : Path) (marked : Bool) (s : State) : State :=
  if isEarly (s.mon p) s.elapsed then charge p .earlyStep s
  else if marked then markedStep p s
  else unmarkedStep p s

/-- A rising edge on a path's step line (R25, R38). -/
def takeStep (p : Path) (marked : Bool) (s : State) : State :=
  match (s.mon p).state with
  | .disabled => s
  | .failed => s
  | .absent => changePath p ((s.mon p).startQualifying marked s.elapsed) none s
  | .qualifying => judgeStep p marked s
  | .good => judgeStep p marked s
  | .suspect => judgeStep p marked s

/-- The step window timer expires (R31): MISSING_STEP is charged, and unless the path has failed the expiry stands in for
the step. -/
def expireWindow (p : Path) (s : State) : State :=
  let c := charge p .missingStep s
  if hasFailed p c then c
  else
    let m := c.mon p
    countStep p
      (setMon p
        { m with
          refInstant := m.refInstant.map fun ref => ref + m.config.period
          window := some m.config.windowTicks } c)

end Sys2Proof.Machine
end

