-- ==== Sys2Proof/Machine/PathRequests.lean ====
section
/-! DEFINITION. Meanings of the requests and of the events of the reference monitors (chapter 2) and of the holdover timer
(section 3.4). -/

namespace Sys2Proof.Machine

/-! ## Requests -/

/-- The checks and the effect of SET PATH CONFIG (R26). -/
def configurePath (c : Path × PathConfig) (s : State) : Reply × State :=
  if c.2.inRange then
    if (s.mon c.1).state = .disabled then (okReply [], setMon c.1 { s.mon c.1 with config := c.2 } s)
    else refuse .state s
  else refuse .range s

/-- SET_PATH_CONFIG (R26). -/
def execSetPathConfig (s : State) : Outcome := take (hasKind 0x08#8) (parsed readPathConfig configurePath) s

/-- The request is a PATH CONTROL that this operation's row takes: one that names the operation, or one that is malformed
and refused under any of the three rows (log entry 6). -/
def asksOperation (op : PathOperation) (r : Request) : Bool :=
  hasKind 0x09#8 r &&
    (match readPathControl r.payload with | some named => decide (named.2 = op) | none => true)

/-- The reply to an accepted PATH CONTROL carries the path's state after the request (section 2.7). -/
def pathReply (p : Path) (s : State) : Reply × State := (okReply [(s.mon p).state.code], s)

/-- The totals and the last fault cleared (R44, R45). -/
def Monitor.forgetFaults (m : Monitor) : Monitor := { m with totals := FaultTotals.zero, lastFault := none }

/-- RESTART (R44). -/
def restartPath (p : Path) (s : State) : Reply × State :=
  let fresh := ((s.mon p).cleared .absent).forgetFaults
  match (s.mon p).state with
  | .disabled => refuse .state s
  | .absent => pathReply p (setMon p fresh s)
  | .qualifying => pathReply p (changePath p fresh none s)
  | .good => pathReply p (changePath p fresh none s)
  | .suspect => pathReply p (changePath p fresh none s)
  | .failed => pathReply p (changePath p fresh none s)

/-- ENABLE (R45). -/
def enablePath (p : Path) (s : State) : Reply × State :=
  if (s.mon p).state = .disabled then
    pathReply p (changePath p ((s.mon p).cleared .absent).forgetFaults none s)
  else pathReply p s

/-- DISABLE (R46). -/
def disablePath (p : Path) (s : State) : Reply × State :=
  if (s.mon p).state = .disabled then pathReply p s
  else pathReply p (changePath p ((s.mon p).cleared .disabled) none s)

/-- PATH_CONTROL_RESTART (R44). -/
def execPathControlRestart (s : State) : Outcome :=
  take (asksOperation .restart) (parsed readPathControl fun c => restartPath c.1) s

/-- PATH_CONTROL_ENABLE (R45). -/
def execPathControlEnable (s : State) : Outcome :=
  take (asksOperation .enable) (parsed readPathControl fun c => enablePath c.1) s

/-- PATH_CONTROL_DISABLE (R46). -/
def execPathControlDisable (s : State) : Outcome :=
  take (asksOperation .disable) (parsed readPathControl fun c => disablePath c.1) s

/-- QUERY_PATHS (R48). -/
def execQueryPaths (s : State) : Outcome :=
  take (hasKind 0x0A#8) (bare fun t => (okReply (pathBlock t.monA ++ pathBlock t.monB), t)) s

/-! ## Events -/

/-- REFERENCE_STEP (R25, R29, R30, R38). -/
def execReferenceStep (p : Path) (mark : Level) (s : State) : Outcome :=
  event true (takeStep p (decide (mark = .high))) s

/-- The monitor checks steps: QUALIFYING, GOOD or SUSPECT (Table 2.6). -/
def PathState.watches (st : PathState) : Bool := decide (st = .qualifying) || st.trusted

/-- The step window has run out (R30, R31). -/
def windowDue (p : Path) (s : State) : Bool :=
  (s.mon p).state.watches && decide ((s.mon p).window = some 0)

/-- STEP_WINDOW_EXPIRY (R31). -/
def execStepWindowExpiry (p : Path) (s : State) : Outcome := event (windowDue p s) (expireWindow p) s

/-- The silence timer has run out (R39). -/
def silenceDue (p : Path) (s : State) : Bool :=
  decide ((s.mon p).state = .qualifying) && decide ((s.mon p).silence = some 0)

/-- SILENCE_TIMER_EXPIRY (R39): the path returns to ABSENT. -/
def execSilenceTimerExpiry (p : Path) (s : State) : Outcome :=
  event (silenceDue p s) (changePath p ((s.mon p).cleared .absent) none) s

/-- The hold-off timer has run out (R42). -/
def holdOffDue (p : Path) (s : State) : Bool :=
  decide ((s.mon p).state = .failed) && decide ((s.mon p).holdOff = some 0)

/-- HOLD_OFF_TIMER_EXPIRY (R42): the path moves to ABSENT. -/
def execHoldOffTimerExpiry (p : Path) (s : State) : Outcome :=
  event (holdOffDue p s) (changePath p ((s.mon p).cleared .absent) none) s

/-- HOLDOVER_TIMER_EXPIRY (R61). -/
def execHoldoverTimerExpiry (s : State) : Outcome := event (holdoverDue s.disc) expireHoldover s

end Sys2Proof.Machine
end

