-- ==== Sys2Proof/Machine/Resets.lean ====
section
/-! DEFINITION. Meanings of the commands that start, stop and reset the part: power, RESET_N and RESET. -/

namespace Sys2Proof.Machine

/-! ## Power and RESET_N -/

/-- POWER_ON (R181): at the end of power-on every block takes its power-on values, whatever the state was before. The
model's choice (log entry 34): a break that was in progress is no longer one, whatever the level of RXD. -/
def execPowerOn (pins : PinSample) (s : State) : Outcome := .next (fullReset .power false pins s)

/-- The part held in reset (R182): every block at its power-on values, nothing in transmission and nothing queued. The
straps and the capture pins are sampled at the release. The model's choice (log entry 34): a break that has been detected
(R168) ends here. -/
def holdInReset (s : State) : State :=
  { State.reset with
    run := .inReset
    elapsed := s.elapsed
    link := { Link.reset with rate := s.link.rate, outbound := [], startCause := .pin }
    choices := s.choices
    pending := s.pending }

/-- RESET_N_LOW (R182): the part resets at once; without a supply there is nothing to reset. -/
def execResetNLow (s : State) : Outcome := if s.run = .off then .next s else .next (holdInReset s)

/-- RESET_N_RELEASE (R163, R181): a part held in reset starts. The model's choice (log entry 34): it starts with no break in
progress, so frames may begin, and RXD still low from a break detected before counts as a new one after 24 bit times. -/
def execResetNRelease (pins : PinSample) (s : State) : Outcome :=
  if s.run = .inReset then .next (fullReset .pin false pins s) else .next s

/-- POWER_OFF (R164): a frame in transmission is cut and the part stops until the next power-on. -/
def execPowerOff (s : State) : Outcome := .next { s with run := .off, link := { s.link with tx := none } }

/-! ## RESET -/

/-- The request is a RESET that this scope's row takes: one that names the scope, or one that names none and is refused
under any of the four rows (log entry 6). -/
def asksScope (scope : ResetScope) (r : Request) : Bool :=
  hasKind 0x02#8 r && (match readScope r.payload with | some named => decide (named = scope) | none => true)

/-- The scope byte of a request or a reply (Table 11.4). -/
def ResetScope.code : ResetScope → Byte
  | .schedule => 0#8
  | .journal => 1#8
  | .timescale => 2#8
  | .part => 3#8

/-- A RESET of one of the three scopes that act at once (R178): the effect, then the reply with the scope. -/
def scopedReset (scope : ResetScope) (effect : State → State) (s : State) : Outcome :=
  take (asksScope scope) (parsed readScope fun named t => (okReply [named.code], effect t)) s

/-- RESET_SCHEDULE (R90, R121). -/
def execResetSchedule (s : State) : Outcome := scopedReset .schedule scheduleReset s

/-- What a RESET of scope JOURNAL does (R150). -/
def journalReset (s : State) : State :=
  setKind .journalOverrun .quiet
    (setKind .journalLevel .quiet
      { s with journal :=
          { s.journal with records := [], delivered := 0, overrun := false, missed := 0, firstMissed := ⟨0, 0⟩ } })

/-- RESET_JOURNAL (R150). -/
def execResetJournal (s : State) : Outcome := scopedReset .journal journalReset s

/-- What a RESET of scope TIMESCALE does (R23): the time is unset, the slew is abandoned, the discontinuity is declared,
and the schedule and the lines are reset (R109). A hold and the phase offset are kept. The model's choice (log entry 12): a
second boundary that is due at that instant stays due, with the seconds already 0. -/
def timescaleReset (s : State) : State :=
  let free := abandonFreeSlew s
  let cleared :=
    setTs
      { free.ts with
        now := ⟨0, free.ts.now.tick⟩
        timeState := .unset
        stagedLoad := none
        remainingSlew := 0
        slewAmount := 0
        slewLeft := 0
        slewLost := 0 } free
  scheduleReset (declareEra .unset cleared)

/-- RESET_TIMESCALE (R23). -/
def execResetTimescale (s : State) : Outcome := scopedReset .timescale timescaleReset s

/-- The part winds down its link (R179): the requests that wait are discarded and PART pending becomes yes. -/
def windDown (s : State) : State := { s with link := { s.link with requests := [], partPending := true } }

/-- RESET_PART (R179): the reply is queued and cached, and the part resets when it has been sent. -/
def execResetPart (s : State) : Outcome :=
  match headRequest s with
  | none => .next s
  | some r =>
    if asksScope .part r then
      match readScope r.payload with
      | some named => .next (windDown (answer .partReset r (okReply [named.code]) (dequeueRequest s)))
      | none => .next (answer .dispatched r (plainReply .malformed) (dequeueRequest s))
    else .next s

end Sys2Proof.Machine
end

