-- ==== Sys2Proof/Machine/ScheduleRequests.lean ====
section
/-! DEFINITION. Meanings of the requests of the schedule (chapter 4) and of a firing (chapter 5). -/

namespace Sys2Proof.Machine

/-! ## Finding an entry -/

/-- The armed entry with a handle. -/
def Schedule.findArmed (c : Schedule) (handle : Nat) : Option ArmedEntry :=
  c.armed.find? fun a => a.handle == handle

/-- The waiting entry with a handle. -/
def Schedule.findWaiting (c : Schedule) (handle : Nat) : Option Entry :=
  c.allWaiting.find? fun e => e.desc.handle == handle

/-- The entry with a handle, and its due time if it is ARMED. -/
def Schedule.find (c : Schedule) (handle : Nat) : Option (Entry × Option TimeValue) :=
  match c.findArmed handle with
  | some a => some (a.entry, some a.due)
  | none => (c.findWaiting handle).map fun e => (e, none)

/-- The entry state code of a present entry (Table 11.4): ARMED with a due time, WAITING without. -/
def entryStateByte (due : Option TimeValue) : Byte :=
  match due with
  | some _ => 0#8
  | none => 1#8

/-- A due time in a reply: zero where there is none (R85, R87). -/
def dueBytes (due : Option TimeValue) : List Byte := timeBytes (due.getD ⟨0, 0⟩)

/-! ## ADMIT ENTRY -/

/-- The fields of the reply to an accepted admission (R85). An entry that is not present any more is COMPLETED. -/
def admissionReply (handle number : Nat) (late : Bool) (s : State) : Reply :=
  let fields : List Byte :=
    match s.sched.find handle with
    | some (e, due) => entryStateByte due :: (dueBytes due ++ beBytes 2 e.remaining)
    | none => 2#8 :: (dueBytes none ++ beBytes 2 0)
  okReply (fields ++ beBytes 4 number ++ [flagByte late])

/-- The entry as it is stored and numbered (R70, R71, R81). -/
def newEntry (d : Descriptor) (s : State) : Entry :=
  { desc := d, remaining := d.burstCount, occurrences := 0, admission := s.sched.admissions + 1 }

/-- The admission counter increases (R71). -/
def countAdmission (s : State) : State :=
  { s with sched := { s.sched with admissions := s.sched.admissions + 1 } }

/-- The occurrences of a late entry that lie at or before now (R81); one without a repeat. -/
def passedCount (now first : TimeValue) (d : Descriptor) : Nat :=
  match d.rep with
  | some r => (now.lin - first.lin) / r.period + 1
  | none => 1

/-- A late SKIP admission is refused (R83): no firing of the burst lies after now. -/
def refusedAsLate (passed : Nat) (d : Descriptor) : Bool :=
  match d.rep with
  | none => true
  | some r => decide (r.count ≠ 0) && decide (r.count ≤ passed)

/-- The admission of a TIMED entry that is late under FIRE (R82): one late firing stands for all passed occurrences. -/
def admitLateFire (a : ArmedEntry) (passed : Nat) (s : State) : State :=
  let done := fireAction true a.entry s
  settle passed .complete { a with entry := done.1 } (raise .schedule done.2)

/-- The admission of a TIMED entry that is late under SKIP (R83). -/
def admitLateSkip (a : ArmedEntry) (passed : Nat) (s : State) : State :=
  raise .schedule (settle passed .skipped a s)

/-- The admission of a descriptor that has passed checks 1 to 6, and check 7 (R81 to R84). -/
def admitChecked (d : Descriptor) (s : State) : Reply × State :=
  let e := newEntry d s
  let counted := countAdmission s
  match d.start with
  | .triggered line _ _ =>
    let done := joinWaiting line e counted
    (admissionReply d.handle e.number false done, done)
  | .timed first =>
    let a : ArmedEntry := { entry := e, due := first, lap := 0 }
    if s.ts.now.lin < first.lin then
      let done := arm a counted
      (admissionReply d.handle e.number false done, done)
    else
      let passed := passedCount s.ts.now first d
      match d.latePolicy with
      | .fire =>
        let done := admitLateFire a passed counted
        (admissionReply d.handle e.number true done, done)
      | .skip =>
        if refusedAsLate passed d then refuse .late s
        else
          let done := admitLateSkip a passed counted
          (admissionReply d.handle e.number true done, done)

/-- Checks 2 to 6 of Table 4.5, in order (R77 to R80). -/
def admitEntry (raw : RawDescriptor) (s : State) : Reply × State :=
  if s.ts.timeState = .unset then refuse .notSet s
  else if s.sched.holds raw.handle then refuse .duplicate s
  else if Config.scheduleCapacity ≤ s.sched.entries.length then refuse .full s
  else
    match raw.checked with
    | none => refuse .range s
    | some d => if s.lines[d.line].mode = .scheduled then admitChecked d s else refuse .state s

/-- ADMIT_ENTRY (R77 to R85). -/
def execAdmitEntry (s : State) : Outcome := take (hasKind 0x0C#8) (parsed readDescriptor admitEntry) s

/-! ## WITHDRAW ENTRY and the queries -/

/-- An entry leaves whichever list holds it (R86). -/
def removeEntry (handle : Nat) (s : State) : State :=
  { s with sched :=
      { s.sched with
        armed := s.sched.armed.filter fun a => a.handle != handle
        waiting := mapVec (fun l => l.filter fun e => e.desc.handle != handle) s.sched.waiting } }

/-- The effect of WITHDRAW ENTRY (R86). -/
def withdraw (handle : Nat) (s : State) : Reply × State :=
  match s.sched.find handle with
  | none => refuse .noSuchHandle s
  | some (e, _) => (okReply (beBytes 2 e.occurrences), reportRemoved .withdrawn e (removeEntry handle s))

/-- WITHDRAW_ENTRY (R86). -/
def execWithdrawEntry (s : State) : Outcome := take (hasKind 0x0D#8) (parsed readHandle withdraw) s

/-- What QUERY ENTRY reports of an entry (R87, Table 11.9). -/
def entryReport (e : Entry) (due : Option TimeValue) : List Byte :=
  descriptorBytes e.desc ++ [presentParts e.desc, entryStateByte due] ++ dueBytes due ++ beBytes 2 e.remaining
    ++ beBytes 2 e.occurrences ++ beBytes 4 e.number

/-- The reply to QUERY ENTRY (R87). -/
def queryEntry (handle : Nat) (s : State) : Reply × State :=
  match s.sched.find handle with
  | none => refuse .noSuchHandle s
  | some (e, due) => (okReply (entryReport e due), s)

/-- QUERY_ENTRY (R87). -/
def execQueryEntry (s : State) : Outcome := take (hasKind 0x0E#8) (parsed readHandle queryEntry) s

/-- What LIST SCHEDULE reports (R88). -/
def scheduleReport (c : Schedule) : List Byte :=
  beBytes 1 c.armed.length ++ beBytes 1 c.allWaiting.length
    ++ (c.armed.map fun a => beBytes 2 a.handle).flatten
    ++ (c.allWaiting.map fun e => beBytes 2 e.desc.handle).flatten

/-- LIST_SCHEDULE (R88). -/
def execListSchedule (s : State) : Outcome :=
  take (hasKind 0x0F#8) (bare fun t => (okReply (scheduleReport t.sched), t)) s

/-! ## Firing -/

/-- The entry with this handle that may be fired now (R92). -/
def firableEntry (handle : Nat) (s : State) : Option ArmedEntry := s.firable.find? fun a => a.handle == handle

/-- FIRING (R94 to R98): the entry fires if the time has reached it and no entry on its line stands ahead (R100). -/
def execFiring (handle : Nat) (s : State) : Outcome :=
  match firableEntry handle s with
  | some a => event true (fireOrdinary a) s
  | none => .next s

end Sys2Proof.Machine
end

