-- ==== Sys2Proof/Machine/TimeEvents.lean ====
section
/-! DEFINITION. Meanings of the events of the timescale (chapter 1). -/

namespace Sys2Proof.Machine

/-- SECOND_BOUNDARY (R6): the tick count has returned to 0; the staged load is applied and the slew amount taken. -/
def execSecondBoundary (s : State) : Outcome := event s.ts.boundaryDue carryBoundary s

/-- A hold at tick 0 has lasted its ticks (R17). -/
def holdDue (s : State) : Bool := decide (s.ts.hold = some 0)

/-- ANCHOR_HOLD_END (R17): the time advances again. -/
def execAnchorHoldEnd (s : State) : Outcome := event (holdDue s) (fun t => setTs { t.ts with hold := none } t) s

end Sys2Proof.Machine
end

