-- ==== Sys2Proof/Machine/TimeRequests.lean ====
section
/-! DEFINITION. Meanings of the requests of the timescale (chapter 1), the discipline controller (chapter 3) and of QUERY
STATUS (R177). -/

namespace Sys2Proof.Machine

/-- What QUERY STATUS reports (R177, Table 11.9). -/
def statusBytes (s : State) : List Byte :=
  beBytes 2 Config.partCode ++ beBytes 1 Config.revision
    ++ [s.link.startCause.code, s.ts.timeState.code, s.disc.state.code, pathCode s.disc.selected]
    ++ beBytes 2 s.ts.era.toNat ++ beBytes 1 s.sched.armed.length ++ beBytes 1 s.sched.allWaiting.length
    ++ beBytes 2 s.journal.records.length ++ [flagByte s.journal.overrun] ++ kindStateBytes s.attn
    ++ [kindSetByte s.attn.subscribed] ++ beBytes 1 s.link.totals.length ++ beBytes 1 s.link.totals.truncated
    ++ beBytes 1 s.link.totals.crc ++ beBytes 1 s.link.totals.overrun ++ [linkErrorCode s.link.lastError]

/-- QUERY_STATUS (R177). -/
def execQueryStatus (s : State) : Outcome :=
  take (hasKind 0x01#8) (bare fun t => (okReply (statusBytes t), t)) s

/-- What QUERY TIME reports (R22, Table 11.9). -/
def timeReport (s : State) : List Byte :=
  timeBytes s.ts.now ++ [s.ts.timeState.code] ++ beBytes 2 s.ts.era.toNat
    ++ [s.disc.state.code, pathCode s.disc.selected, flagByte s.ts.stagedLoad.isSome]
    ++ beBytes 5 (s.ts.stagedLoad.getD 0) ++ signedDuration s.ts.remainingSlew ++ signedDuration s.ts.phaseOffset
    ++ (signByte s.disc.freqEstimate :: beBytes 4 s.disc.freqEstimate.natAbs)

/-- QUERY_TIME (R22). -/
def execQueryTime (s : State) : Outcome :=
  take (hasKind 0x03#8) (bare fun t => (okReply (timeReport t), t)) s

/-- The payload of SET TIME (R7): a 5-byte seconds value. -/
def readSeconds (bs : List Byte) : Option Nat := if bs.length = 5 then some (numAt 0 5 bs) else none

/-- The staging of a load (R7). -/
def stageLoad (seconds : Nat) (s : State) : Reply × State :=
  if seconds < Config.secondsModulus then
    (okReply [flagByte s.ts.stagedLoad.isSome], setTs { s.ts with stagedLoad := some seconds } s)
  else refuse .range s

/-- SET_TIME (R7). -/
def execSetTime (s : State) : Outcome := take (hasKind 0x04#8) (parsed readSeconds stageLoad) s

/-- CANCEL_SET (R9). -/
def execCancelSet (s : State) : Outcome :=
  take (hasKind 0x05#8)
    (bare fun t => (okReply [flagByte t.ts.stagedLoad.isSome], setTs { t.ts with stagedLoad := none } t)) s

/-- The addition to the remaining slew (R10). -/
def adjustSlew (amount : Bool × TimeValue) (s : State) : Reply × State :=
  let total := s.ts.remainingSlew + signedTicks amount.1 amount.2
  if amount.2.tickOk ∧ amount.2.ticks ≤ Config.halfSecond ∧ total.natAbs ≤ Config.halfSecond then
    (okReply (signedDuration total), setTs { s.ts with remainingSlew := total } s)
  else refuse .range s

/-- ADJUST_TIME (R10). -/
def execAdjustTime (s : State) : Outcome := take (hasKind 0x06#8) (parsed readSigned adjustSlew) s

/-- A step of the current time to a new value (R15): the discontinuity is declared and the schedule takes the jump. A
second boundary that falls together with the step is left to the new time (log entry 12). -/
def stepTo (forward : Bool) (new : TimeValue) (s : State) : State :=
  let moved := setTs { s.ts with now := new, boundaryDue := s.ts.boundaryDue && decide (new.tick = 0) } s
  takeJump forward s.ts.now new (declareEra .step moved)

/-- The checks and the effect of STEP TIME (R15). -/
def stepTime (amount : Bool × TimeValue) (s : State) : Reply × State :=
  let target : Int := s.ts.now.lin + signedTicks amount.1 amount.2
  if s.ts.timeState = .unset then refuse .notSet s
  else if s.disc.state = .acquiring ∨ s.disc.state = .locked then refuse .state s
  else if amount.2.tickOk ∧ 0 ≤ target ∧ target < wrapLin then
    let done := if amount.2.ticks = 0 then s else stepTo (!amount.1) (TimeValue.ofLin target.toNat) s
    (okReply (timeBytes done.ts.now ++ beBytes 2 done.ts.era.toNat), done)
  else refuse .range s

/-- STEP_TIME (R15). -/
def execStepTime (s : State) : Outcome := take (hasKind 0x07#8) (parsed readSigned stepTime) s

/-- An expiry of the holdover timer falls together with a gain that a new configuration brings (R62): the limit is not a
new one, its expiry is due in HOLDOVER, and the evaluation would select a path. `limit` is the limit before the request, and
`s` already holds the configuration. -/
def gainMeetsExpiry (limit : Nat) (s : State) : Bool :=
  decide (s.disc.config.holdoverLimit = limit) && decide (s.disc.state = .holdover) && holdoverDue s.disc
    && decide (s.disc.selected = none) && (chosenPath s).isSome

/-- What follows from a configuration that has been stored: the holdover timer is judged against the limit, then the
selection is evaluated (R50, R51). Where an expiry and a gain fall together either is taken first (R62, log entry 3).
`limit` is the limit before the request. -/
def applyConfig (limit : Nat) (s : State) : State :=
  if gainMeetsExpiry limit s then
    let order := pick true [false] s
    if order.1 then evaluate (applyHoldoverLimit order.2) else applyHoldoverLimit (evaluate order.2)
  else evaluate (applyHoldoverLimit s)

/-- The effect of SET DISCIPLINE CONFIG (R50, R51). -/
def configureDiscipline (c : DiscConfig) (s : State) : Reply × State :=
  if c.inRange then
    let done := applyConfig s.disc.config.holdoverLimit (setDisc { s.disc with config := c } s)
    (okReply [done.disc.state.code, pathCode done.disc.selected], done)
  else refuse .range s

/-- SET_DISCIPLINE_CONFIG (R50). -/
def execSetDisciplineConfig (s : State) : Outcome :=
  take (hasKind 0x0B#8) (parsed readDiscConfig configureDiscipline) s

end Sys2Proof.Machine
end

