-- ==== Sys2Proof/Machine/Dispatch.lean ====
section
/-! DEFINITION. The meaning of each command: one arm per row of spec/opcode_table.json, in the table's order. -/

namespace Sys2Proof.Machine

/-- What a command does to everything but the queue of waiting commands. -/
def exec (i : Instr) (s : State) : Host.Outcome State Fault Refusal :=
  match i with
  | .powerOn pins => Sys2Proof.Machine.execPowerOn pins s
  | .resetNLow => Sys2Proof.Machine.execResetNLow s
  | .resetNRelease pins => Sys2Proof.Machine.execResetNRelease pins s
  | .queryStatus => Sys2Proof.Machine.execQueryStatus s
  | .resetSchedule => Sys2Proof.Machine.execResetSchedule s
  | .resetJournal => Sys2Proof.Machine.execResetJournal s
  | .resetTimescale => Sys2Proof.Machine.execResetTimescale s
  | .resetPart => Sys2Proof.Machine.execResetPart s
  | .queryTime => Sys2Proof.Machine.execQueryTime s
  | .setTime => Sys2Proof.Machine.execSetTime s
  | .cancelSet => Sys2Proof.Machine.execCancelSet s
  | .adjustTime => Sys2Proof.Machine.execAdjustTime s
  | .stepTime => Sys2Proof.Machine.execStepTime s
  | .setPathConfig => Sys2Proof.Machine.execSetPathConfig s
  | .pathControlRestart => Sys2Proof.Machine.execPathControlRestart s
  | .pathControlEnable => Sys2Proof.Machine.execPathControlEnable s
  | .pathControlDisable => Sys2Proof.Machine.execPathControlDisable s
  | .queryPaths => Sys2Proof.Machine.execQueryPaths s
  | .setDisciplineConfig => Sys2Proof.Machine.execSetDisciplineConfig s
  | .admitEntry => Sys2Proof.Machine.execAdmitEntry s
  | .withdrawEntry => Sys2Proof.Machine.execWithdrawEntry s
  | .queryEntry => Sys2Proof.Machine.execQueryEntry s
  | .listSchedule => Sys2Proof.Machine.execListSchedule s
  | .setLineConfig => Sys2Proof.Machine.execSetLineConfig s
  | .driveLine => Sys2Proof.Machine.execDriveLine s
  | .queryLines => Sys2Proof.Machine.execQueryLines s
  | .setCaptureConfig => Sys2Proof.Machine.execSetCaptureConfig s
  | .readJournal => Sys2Proof.Machine.execReadJournal s
  | .setAttention => Sys2Proof.Machine.execSetAttention s
  | .ackAttention => Sys2Proof.Machine.execAckAttention s
  | .unknownKind => Sys2Proof.Machine.execUnknownKind s
  | .frameReceived last => Sys2Proof.Machine.execFrameReceived last s
  | .frameLengthError len => Sys2Proof.Machine.execFrameLengthError len s
  | .gapLimitExpiry => Sys2Proof.Machine.execGapLimitExpiry s
  | .linkBreak pins => Sys2Proof.Machine.execLinkBreak pins s
  | .breakRelease => Sys2Proof.Machine.execBreakRelease s
  | .frameTransmitStart => Sys2Proof.Machine.execFrameTransmitStart s
  | .frameTransmitEnd pins => Sys2Proof.Machine.execFrameTransmitEnd pins s
  | .secondBoundary => Sys2Proof.Machine.execSecondBoundary s
  | .anchorHoldEnd => Sys2Proof.Machine.execAnchorHoldEnd s
  | .firing handle => Sys2Proof.Machine.execFiring handle s
  | .referenceStep path mark => Sys2Proof.Machine.execReferenceStep path mark s
  | .stepWindowExpiry path => Sys2Proof.Machine.execStepWindowExpiry path s
  | .silenceTimerExpiry path => Sys2Proof.Machine.execSilenceTimerExpiry path s
  | .holdOffTimerExpiry path => Sys2Proof.Machine.execHoldOffTimerExpiry path s
  | .holdoverTimerExpiry => Sys2Proof.Machine.execHoldoverTimerExpiry s
  | .trailingEdgeExpiry line => Sys2Proof.Machine.execTrailingEdgeExpiry line s
  | .captureEdge line level => Sys2Proof.Machine.execCaptureEdge line level s
  | .deadTimeExpiry line => Sys2Proof.Machine.execDeadTimeExpiry line s
  | .byteReceived value => Sys2Proof.Machine.execByteReceived value s
  | .transmitterStops pins => Sys2Proof.Machine.execTransmitterStops pins s
  | .powerOff => Sys2Proof.Machine.execPowerOff s

end Sys2Proof.Machine
end

