-- ==== Sys2Proof/Machine/Tick.lean ====
section
/-! DEFINITION. What the part does by itself: its events that are due now, and the passing of one tick of the local
oscillator when none is, and the output pins. -/

namespace Sys2Proof.Machine

/-! ## The events that are due -/

/-- A command, if it is due. -/
def whenDue (due : Bool) (c : Instr) : List Instr := if due then [c] else []

/-- The row of a RESET (R178); a malformed one is taken under the first of its four rows (log entry 6). -/
def resetCommand (payload : List Byte) : Instr :=
  match readScope payload with
  | some .schedule => .resetSchedule
  | some .journal => .resetJournal
  | some .timescale => .resetTimescale
  | some .part => .resetPart
  | none => .resetSchedule

/-- The row of a PATH CONTROL; a malformed one is taken under the first of its three rows (log entry 6). -/
def pathCommand (payload : List Byte) : Instr :=
  match (readPathControl payload).map Prod.snd with
  | some .restart => .pathControlRestart
  | some .enable => .pathControlEnable
  | some .disable => .pathControlDisable
  | none => .pathControlRestart

/-- The row under which a request is taken (Table 11.2). -/
def requestCommand (r : Request) : Instr :=
  match r.kind.toNat with
  | 0x01 => .queryStatus
  | 0x02 => resetCommand r.payload
  | 0x03 => .queryTime
  | 0x04 => .setTime
  | 0x05 => .cancelSet
  | 0x06 => .adjustTime
  | 0x07 => .stepTime
  | 0x08 => .setPathConfig
  | 0x09 => pathCommand r.payload
  | 0x0A => .queryPaths
  | 0x0B => .setDisciplineConfig
  | 0x0C => .admitEntry
  | 0x0D => .withdrawEntry
  | 0x0E => .queryEntry
  | 0x0F => .listSchedule
  | 0x10 => .setLineConfig
  | 0x11 => .driveLine
  | 0x12 => .queryLines
  | 0x13 => .setCaptureConfig
  | 0x14 => .readJournal
  | 0x15 => .setAttention
  | 0x16 => .ackAttention
  | _ => .unknownKind

/-- The take that is due (R175). -/
def takeDue (s : State) : List Instr :=
  match headRequest s with
  | some r => [requestCommand r]
  | none => []

/-- The expiries of a monitor that are due (R31, R39, R42). -/
def pathDue (p : Path) (s : State) : List Instr :=
  whenDue (windowDue p s) (.stepWindowExpiry p) ++ whenDue (silenceDue p s) (.silenceTimerExpiry p)
    ++ whenDue (holdOffDue p s) (.holdOffTimerExpiry p)

/-- The trailing edges that are due (R116). -/
def trailingsDue (s : State) : List Instr :=
  (([0, 1, 2, 3, 4, 5, 6, 7] : List (Fin 8)).filter fun i => trailingDue i s).map Instr.trailingEdgeExpiry

/-- The dead times that have run out (R128). -/
def deadTimesDue (s : State) : List Instr :=
  (([0, 1, 2, 3] : List (Fin 4)).filter fun i => deadTimeDue i s).map Instr.deadTimeExpiry

/-- The part's own events that are due at this instant. What comes from outside (reference steps, edges, bytes, breaks,
the ends of frames, RESET_N and the supply) is never among them. -/
def due (s : State) : List Instr :=
  if s.run = .running then
    whenDue s.ts.boundaryDue .secondBoundary ++ whenDue (holdDue s) .anchorHoldEnd
      ++ (s.firable.map fun a => Instr.firing a.handle)
      ++ pathDue .a s ++ pathDue .b s ++ whenDue (holdoverDue s.disc) .holdoverTimerExpiry
      ++ trailingsDue s ++ deadTimesDue s ++ takeDue s ++ whenDue (canBegin s.link) .frameTransmitStart
  else []

/-! ## One tick -/

/-- One tick off what a timer has left; a stopped timer stays stopped. -/
def countDown (timer : Option Nat) : Option Nat := timer.map fun left => left - 1

/-- One tick at the timers of a monitor. -/
def Monitor.tick (m : Monitor) : Monitor :=
  { m with window := countDown m.window, silence := countDown m.silence, holdOff := countDown m.holdOff }

/-- One tick at the holdover timer, which counts up (R61). -/
def Discipline.tick (d : Discipline) : Discipline :=
  { d with holdoverTimer := d.holdoverTimer.map fun count => count + 1 }

/-- One tick at a trailing edge (R116). -/
def OutLine.tick (l : OutLine) : OutLine := { l with trailing := countDown l.trailing }

/-- One tick at a dead-time timer (R128). -/
def CapLine.tick (c : CapLine) : CapLine := { c with timer := countDown c.timer }

/-- One tick at every timer that runs in elapsed time (section 0.3). -/
def tickTimers (s : State) : State :=
  { s with
    monA := s.monA.tick
    monB := s.monB.tick
    disc := s.disc.tick
    lines := mapVec OutLine.tick s.lines
    caps := mapVec CapLine.tick s.caps }

/-- An instant ends: the pins have come to the levels the lines then hold (R112), and the capture pins are to be sampled
anew (R122). -/
def endInstant (s : State) : State :=
  { s with shown := mapVec OutLine.level s.lines, sampled := Vector.replicate 4 false }

/-- One tick of the local oscillator (log entry 1). In reset and without a supply only the model's elapsed count goes
on. -/
def tick (s : State) : State :=
  let counted := { s with elapsed := s.elapsed + 1 }
  if s.run = .running then tickTimescale (tickTimers (endInstant counted)) else counted

/-- One of the events that are due joins the empty queue, by the free value where there are several (log entry 3). -/
def bringDue (c : Instr) (more : List Instr) (s : State) : State :=
  let chosen := pick c more s
  { chosen.2 with pending := [chosen.1] }

/-- What the part does with no command waiting: one of its own events that are due comes next, and when none is due one
tick passes (log entry 1). -/
def idle (s : State) : State :=
  match due s with
  | [] => tick s
  | c :: more => bringDue c more s

/-! ## The output pins -/

/-- All that falls at this instant has been carried out: no command waits, and none of the part's own events is due. -/
def instantOver (s : State) : Bool := s.pending.isEmpty && (due s).isEmpty

/-- What the pin of an output line presents (R112): nothing while its driver is off; the level of the line once all changes
of the instant have been applied, and until then the level before them (log entry 24). -/
def outPin (s : State) (i : Fin 8) : Option Level :=
  if s.run = .running ∧ s.lines[i].mode ≠ .off then
    some (if instantOver s then s.lines[i].level else s.shown[i])
  else none

end Sys2Proof.Machine
end

