-- ==== Sys2Proof/Safety.lean ====
section
/-! DEFINITION. What the manual says always holds of the part: one predicate for each block, and the part right after a
full reset. -/

namespace Sys2Proof.Machine

/-! ## The journal (R139 to R142, R147, Table 8.1) -/

/-- The sequence numbers of the stored records form an unbroken run that ends just below the counter (R139). -/
def numbered (j : Journal) : Prop :=
  j.records.map Record.seq =
    (List.range j.records.length).map fun i => j.seqCounter - BitVec.ofNat 16 (j.records.length - i)

/-- What always holds of the journal. -/
structure JournalOk (j : Journal) : Prop where
  fill : j.records.length ≤ 256
  delivered : j.delivered ≤ j.records.length
  threshold : 1 ≤ j.threshold ∧ j.threshold ≤ 256
  overrun : j.overrun = true → j.records.length = 256 ∧ 1 ≤ j.missed ∧ j.missed ≤ 65535
  calm : j.overrun = false → j.missed = 0 ∧ j.firstMissed = ⟨0, 0⟩
  numbers : numbered j

/-! ## The link controller (R165, R166, R171, R172, R174, R179) -/

/-- The partial frame fits its receive state (Table 10.3). -/
def receiverOk (l : Link) : Prop :=
  match l.rx with
  | .hunt => l.rxBytes = []
  | .length => l.rxBytes = []
  | .body => lengthOk (l.rxBytes.getD 0 0#8) = true ∧ 1 ≤ l.rxBytes.length
      ∧ l.rxBytes.length < wholeLength (byteAt 0 l.rxBytes)
  | .check => False

/-- What always holds of the link controller. -/
structure LinkOk (l : Link) : Prop where
  requests : l.requests.length ≤ 4
  places : placesUsed l ≤ 11
  own : (l.outbound.filter OutFrame.isOwn).length ≤ 1
  cache : l.cache.length ≤ 4
  windDown : l.partPending = true → l.requests = []
  receiver : receiverOk l

/-! ## The attention unit (R156) -/

/-- A subscribed kind that is RAISED has a NOTICE or an ANNOUNCE waiting that will tell the host of it. -/
def NoticeOk (s : State) : Prop := s.attn.toNotify.any id = true → noticePlaceFree s.link = false

/-! ## The timescale (R1, R3, R17, Table 1.2) -/

/-- A point of the timescale (Table 0.2). -/
def TimeValue.Valid (t : TimeValue) : Prop := t.sec < 137438953472 ∧ t.tick < 125000000

/-- What always holds of the timescale. -/
structure ClockOk (s : State) : Prop where
  now : s.ts.now.Valid
  load : ∀ v, s.ts.stagedLoad = some v → v < 137438953472
  remaining : s.ts.remainingSlew.natAbs ≤ 62500000
  amount : s.ts.slewAmount.natAbs ≤ 6250
  phase : -62499999 ≤ s.ts.phaseOffset ∧ s.ts.phaseOffset ≤ 62500000
  remainder : s.ts.freqRemainder.natAbs < 1000000000
  rate : 1 ≤ s.disc.config.slewRate ∧ s.disc.config.slewRate ≤ 6250
  hold : s.ts.hold.isSome = true → anchored s = true ∧ s.ts.now.tick = 0

/-! ## The discipline controller (R49, R52, Tables 3.1 and 3.4) -/

/-- What always holds of the discipline controller. -/
structure DisciplineOk (s : State) : Prop where
  selected : s.disc.selected.isSome = true ↔ s.disc.state = .acquiring ∨ s.disc.state = .locked
  eligible : ∀ p, s.disc.selected = some p → eligible s p = true
  returns : s.disc.returnState = .holdover → s.disc.state = .acquiring
  timer : s.disc.holdoverTimer.isSome = true →
    s.disc.config.holdoverLimit ≠ 0 ∧
      (s.disc.state = .holdover ∨ (s.disc.state = .acquiring ∧ s.disc.returnState = .holdover))
  estimate : s.disc.freqEstimate.natAbs ≤ 100000
  config : s.disc.config.inRange = true
  switching : s.ts.switchPending = true → s.disc.state = .locked

/-! ## The monitors (R28, Tables 2.4 and 2.6) -/

/-- What always holds of a monitor. -/
structure MonitorOk (m : Monitor) : Prop where
  window : m.window.isSome = m.state.watches
  reference : m.refInstant.isSome = m.state.watches
  silence : m.silence.isSome = decide (m.state = .qualifying)
  holdOff : m.holdOff.isSome = (decide (m.state = .failed) && m.config.autoRestart)
  idle : m.state.watches = false →
    m.stepsSinceMark = 0 ∧ m.previousMark = none ∧ m.lastAcceptedMark = none ∧ m.firstMarkPending = false
      ∧ m.faultSinceMark = false ∧ m.cleanCount = 0 ∧ m.suspectCount = 0
  steps : m.stepsSinceMark ≤ m.config.stepsPerSecond
  counts : m.cleanCount ≤ 15 ∧ m.suspectCount ≤ 15
  config : m.config.inRange = true
  totals : m.totals.earlyStep ≤ 255 ∧ m.totals.missingStep ≤ 255 ∧ m.totals.missingMark ≤ 255
    ∧ m.totals.residue ≤ 255 ∧ m.totals.rate ≤ 255 ∧ m.totals.skew ≤ 255

/-- What always holds of both monitors. -/
def MonitorsOk (s : State) : Prop := MonitorOk s.monA ∧ MonitorOk s.monB

/-! ## The schedule and the lines (R72 to R75, R80, R112, R114) -/

/-- The armed list is ordered by due time and, among equal due times, by admission (R72). -/
def armedInOrder (l : List ArmedEntry) : Prop := l.Pairwise fun a b => b.before a = false

/-- A waiting entry is a triggered entry of its list's line (R73). -/
def waitsOn (i : Fin 4) (e : Entry) : Prop := ∃ offset mode, e.desc.start = .triggered i offset mode

/-- What always holds of the schedule. -/
structure ScheduleOk (s : State) : Prop where
  capacity : s.sched.entries.length ≤ 64
  handles : (s.sched.entries.map fun e => e.desc.handle).Nodup
  order : armedInOrder s.sched.armed
  waiting : ∀ (i : Fin 4), ∀ e ∈ s.sched.waiting[i], waitsOn i e
  unset : s.ts.timeState = .unset → s.sched.entries = []
  lines : ∀ e ∈ s.sched.entries, s.lines[e.desc.line].mode = .scheduled

/-- A trailing edge is pending only on a SCHEDULED line, which then holds its non-idle level (R112, R114). -/
def LinesOk (s : State) : Prop :=
  ∀ i : Fin 8, s.lines[i].trailing.isSome = true →
    s.lines[i].mode = .scheduled ∧ s.lines[i].level = flipLevel s.lines[i].idle

/-! ## After a full reset -/

/-- Every block is at its power-on values (Tables 1.2, 2.2, 2.4, 3.2, 3.4, 4.4, 6.1, 7.1, 8.1, R153), the capture pins
sampled (R123). -/
structure AtPowerOn (pins : PinSample) (t : State) : Prop where
  time : t.ts.now = ⟨0, 0⟩ ∧ t.ts.timeState = .unset ∧ t.ts.era = 0 ∧ t.ts.stagedLoad = none
    ∧ t.ts.remainingSlew = 0 ∧ t.ts.slewAmount = 0 ∧ t.ts.phaseOffset = 0 ∧ t.ts.freqRemainder = 0
  paths : ∀ p, (t.mon p).state = .absent ∧ (t.mon p).refInstant = none ∧ (t.mon p).window = none
    ∧ (t.mon p).stepsSinceMark = 0 ∧ (t.mon p).previousMark = none ∧ (t.mon p).lastAcceptedMark = none
    ∧ (t.mon p).firstMarkPending = false ∧ (t.mon p).faultSinceMark = false ∧ (t.mon p).cleanCount = 0
    ∧ (t.mon p).suspectCount = 0 ∧ (t.mon p).silence = none ∧ (t.mon p).holdOff = none
    ∧ (t.mon p).totals = ⟨0, 0, 0, 0, 0, 0⟩ ∧ (t.mon p).lastFault = none
    ∧ (t.mon p).config = ⟨3, 125, 125, 3, 2, 3, false, 10⟩
  discipline : t.disc.state = .free ∧ t.disc.selected = none ∧ t.disc.returnState = .free
    ∧ t.disc.holdoverTimer = none ∧ t.disc.freqEstimate = 0
    ∧ t.disc.config = ⟨.preferA, false, 600, .jumpOverLimit, 125000, 625⟩
  schedule : t.sched.entries = [] ∧ t.sched.admissions = 0
  lines : ∀ i : Fin 8, t.lines[i] = ⟨.off, .low, .low, none⟩
  captures : t.caps = #v[⟨.off, 0, false, true, none, pins.cap0⟩, ⟨.off, 0, false, true, none, pins.cap1⟩,
    ⟨.off, 0, false, true, none, pins.cap2⟩, ⟨.off, 0, false, true, none, pins.cap3⟩]
  journal : t.journal = ⟨[], 0, 0, false, 0, ⟨0, 0⟩, 64⟩
  attention : (∀ k, t.attn.stateOf k = .quiet) ∧ (∀ k, t.attn.isSubscribed k = decide (k ≠ .journalLevel))

/-- The link controller right after a full reset (Table 10.1, R181): the rate of the straps, nothing received, queued or
cached, and the ANNOUNCE of the start waiting. -/
def LinkAtPowerOn (cause : StartCause) (announce : AnnounceCause) (inBreak : Bool) (pins : PinSample) (l : Link) : Prop :=
  l = ⟨strapRate pins.baud1 pins.baud0, .hunt, [], [], [.announce announce], [], none, 0, false, ⟨0, 0, 0, 0⟩, none,
    cause, inBreak⟩

/-- A full reset has just been completed (R179, R181). The elapsed clock goes on, and the commands that wait stay. -/
structure Restarted (cause : StartCause) (announce : AnnounceCause) (inBreak : Bool) (pins : PinSample)
    (s t : State) : Prop where
  running : t.run = .running
  blocks : AtPowerOn pins t
  link : LinkAtPowerOn cause announce inBreak pins t.link
  elapsed : t.elapsed = s.elapsed
  pending : t.pending = s.pending

/-! ## Words the statements use -/

/-- The command takes the head request, answers it with this reply (R175), and leaves everything but the reply and its
cache entry as in `t`. -/
def AnsweredWith (c : Instr) (r : Request) (rep : Reply) (t s : State) : Prop :=
  exec c s = .next (answer .dispatched r rep t)

/-- The command takes the head request and refuses it: the reply carries the status alone (R185), and nothing changes but
the request's leaving its queue (R176). -/
def RefusedWith (c : Instr) (r : Request) (status : Status) (s : State) : Prop :=
  AnsweredWith c r (plainReply status) (dequeueRequest s) s

/-- The state of a kind that was in this state, after a raise (R154). -/
def AttnState.whenRaised (st : AttnState) : AttnState := if st = .quiet then .raised else st

/-- The dispatcher can take this request next (R175): it is the head of the request queue, no reply of the dispatcher waits to
begin, and no PART reset is pending. -/
def TakesNext (s : State) (r : Request) : Prop :=
  s.link.requests.head? = some r ∧ s.link.partPending = false ∧
    ∀ frame, OutFrame.reply .dispatched frame ∉ s.link.outbound ∧ OutFrame.reply .partReset frame ∉ s.link.outbound

/-- The row under which a request is taken (Table 11.2): its KIND, and for RESET its scope and for PATH CONTROL its operation.
A malformed RESET or PATH CONTROL is taken under the first row of its KIND: the model's choice (log entry 6). -/
def TakenUnder (r : Request) : Instr → Prop
  | .queryStatus => r.kind = 0x01#8
  | .resetSchedule =>
    r.kind = 0x02#8 ∧ r.payload ≠ [0x01#8] ∧ r.payload ≠ [0x02#8] ∧ r.payload ≠ [0x03#8]
  | .resetJournal => r.kind = 0x02#8 ∧ r.payload = [0x01#8]
  | .resetTimescale => r.kind = 0x02#8 ∧ r.payload = [0x02#8]
  | .resetPart => r.kind = 0x02#8 ∧ r.payload = [0x03#8]
  | .queryTime => r.kind = 0x03#8
  | .setTime => r.kind = 0x04#8
  | .cancelSet => r.kind = 0x05#8
  | .adjustTime => r.kind = 0x06#8
  | .stepTime => r.kind = 0x07#8
  | .setPathConfig => r.kind = 0x08#8
  | .pathControlRestart =>
    r.kind = 0x09#8 ∧ ∀ path : Byte, path.toNat ≤ 1 → r.payload ≠ [path, 0x01#8] ∧ r.payload ≠ [path, 0x02#8]
  | .pathControlEnable => r.kind = 0x09#8 ∧ ∃ path : Byte, path.toNat ≤ 1 ∧ r.payload = [path, 0x01#8]
  | .pathControlDisable => r.kind = 0x09#8 ∧ ∃ path : Byte, path.toNat ≤ 1 ∧ r.payload = [path, 0x02#8]
  | .queryPaths => r.kind = 0x0A#8
  | .setDisciplineConfig => r.kind = 0x0B#8
  | .admitEntry => r.kind = 0x0C#8
  | .withdrawEntry => r.kind = 0x0D#8
  | .queryEntry => r.kind = 0x0E#8
  | .listSchedule => r.kind = 0x0F#8
  | .setLineConfig => r.kind = 0x10#8
  | .driveLine => r.kind = 0x11#8
  | .queryLines => r.kind = 0x12#8
  | .setCaptureConfig => r.kind = 0x13#8
  | .readJournal => r.kind = 0x14#8
  | .setAttention => r.kind = 0x15#8
  | .ackAttention => r.kind = 0x16#8
  | .unknownKind => r.kind.toNat = 0 ∨ 0x16 < r.kind.toNat
  | _ => False

/-- What a command needs to be one of the part's own events at this instant, in a part that runs: a second boundary that is due
(R6), a hold that has run out (R17), a reached entry with no reached one of its line ahead of it (R91, R92), a timer of a path,
of the controller, of an output line or of a capture line that has run out (R31, R39, R42, R61, R116, R128), an idle transmitter
with a frame waiting and no break in progress (R164, R168), and for a request's row the request that can be taken (R175). What
comes from outside is never one of them. -/
def OwnEventDue (s : State) : Instr → Prop
  | .secondBoundary => s.ts.boundaryDue = true
  | .anchorHoldEnd => s.ts.hold = some 0
  | .firing h =>
    ∃ ahead a behind, s.sched.armed = ahead ++ a :: behind ∧ a.entry.desc.handle = h ∧ a.reached s.ts.now = true ∧
      ∀ b ∈ ahead, b.reached s.ts.now = true → b.entry.desc.line ≠ a.entry.desc.line
  | .stepWindowExpiry p =>
    ((s.mon p).state = .qualifying ∨ (s.mon p).state = .good ∨ (s.mon p).state = .suspect) ∧
      (s.mon p).window = some 0
  | .silenceTimerExpiry p => (s.mon p).state = .qualifying ∧ (s.mon p).silence = some 0
  | .holdOffTimerExpiry p => (s.mon p).state = .failed ∧ (s.mon p).holdOff = some 0
  | .holdoverTimerExpiry =>
    ∃ count, s.disc.holdoverTimer = some count ∧ s.disc.config.holdoverLimit ≠ 0 ∧
      s.disc.config.holdoverLimit * 125000000 ≤ count
  | .trailingEdgeExpiry i => s.lines[i].trailing = some 0
  | .deadTimeExpiry i => s.caps[i].timer = some 0
  | .frameTransmitStart => s.link.tx = none ∧ s.link.inBreak = false ∧ s.link.outbound ≠ []
  | c => ∃ r, TakesNext s r ∧ TakenUnder r c

/-- The journal after a record with this era and timestamp has reached it: stored at the tail while there is a free place
(R138), and missed otherwise (R141, R142). -/
def journalAfter (era : Half) (stamp : TimeValue) (body : RecordBody) (j : Journal) : Journal :=
  if j.records.length < 256 then
    { j with records := j.records ++ [⟨j.seqCounter, era, stamp, body⟩], seqCounter := j.seqCounter + 1 }
  else if j.overrun then { j with missed := if j.missed < 65535 then j.missed + 1 else j.missed }
  else { j with overrun := true, missed := 1, firstMissed := stamp }

/-- The outbound queue after a kind is raised (R154, R156): one NOTICE joins its tail if the kind was QUIET, is subscribed,
and no NOTICE or ANNOUNCE waits; otherwise it is the queue as it was. -/
def queueAfterRaise (k : AttnKind) (a : Attention) (queue : List OutFrame) : List OutFrame :=
  if a.stateOf k = .quiet ∧ a.isSubscribed k = true ∧ queue.any OutFrame.isOwn = false then queue ++ [.notice]
  else queue

/-- The outbound queue after a record has reached the journal: it may raise JOURNAL_LEVEL (R148) or JOURNAL_OVERRUN
(R141). -/
def queueAfterRecord (s : State) : List OutFrame :=
  if s.journal.records.length < 256 then
    if s.journal.records.length + 1 = s.journal.threshold then
      queueAfterRaise .journalLevel s.attn s.link.outbound
    else s.link.outbound
  else if s.journal.overrun then s.link.outbound
  else queueAfterRaise .journalOverrun s.attn s.link.outbound

/-- What is left of the slew and of the frequency correction of a free-running second (R14, R23): each between none and its
whole, together the adjustments of the combined count N that have yet to be made. Before the first tick of the span all of both
is left, and when the second has ended nothing is left that the two would cancel. What this leaves open is a free value (log
entry 4). -/
def SplitOf (c : Timescale) (left rest : Int) : Prop :=
  let free := c.freeRun
  let n : Int := free.slew - free.freq
  let toCome : Int := if 0 ≤ n then max 0 (n - free.done) else min 0 (n + free.done)
  left - rest = toCome ∧
    (0 ≤ free.slew → 0 ≤ left ∧ left ≤ free.slew) ∧ (free.slew ≤ 0 → free.slew ≤ left ∧ left ≤ 0) ∧
    (0 ≤ free.freq → 0 ≤ rest ∧ rest ≤ free.freq) ∧ (free.freq ≤ 0 → free.freq ≤ rest ∧ rest ≤ 0) ∧
    (c.boundaryDue = false → free.done = 0 → c.now.tick = free.base → left = free.slew) ∧
    (c.boundaryDue = true → left.natAbs + rest.natAbs = toCome.natAbs)

/-- An ADMIT ENTRY at the head of the queue that passes checks 1 to 6 of Table 4.5 with this descriptor. -/
def PassesSixChecks (s : State) (r : Request) (d : Descriptor) : Prop :=
  headRequest s = some r ∧ r.kind = 0x0C#8 ∧ s.ts.timeState = .set ∧ s.sched.entries.length < 64 ∧
    s.lines[d.line].mode = .scheduled ∧
    ∃ raw, readDescriptor r.payload = some raw ∧ s.sched.holds raw.handle = false ∧ raw.checked = some d

/-- The entry that an admission stores (R70, R71). -/
def AdmittedEntry (s : State) (d : Descriptor) : Entry := ⟨d, d.burstCount, 0, s.sched.admissions + 1⟩

/-- A line after a RESET of scope SCHEDULE (R121). -/
def IdledLine (l : OutLine) : OutLine :=
  ⟨l.mode, l.idle, if l.mode = .scheduled then l.idle else l.level, none⟩

end Sys2Proof.Machine
end

