-- ==== Sys2Proof/Certificates/Slice0/Obligations.lean ====
section
/-! DEFINITION. The statements about the model, for the provers. -/

open Sys2Proof Sys2Proof.Machine

/-! ## Steps -/

/-- The command at the front of the queue is carried out with the rest of the queue. -/
def Obligations.StepTakesTheFrontCommand : Prop :=
  ∀ (s : State) (c : Instr) (rest : List Instr),
    s.pending = c :: rest → step s = exec c (s.withPending rest)

/-- The model's own choice (log entries 1 and 3): with no command waiting, one of the part's own events that are due comes
next, and when none is due one tick of the local oscillator passes. In a part that runs exactly these are due, and in one that
does not run nothing is: the second boundary of a tick wrap, the end of a hold, the firing of each entry that may be fired now,
each expiry whose timer has run out, the row of the request that the dispatcher can take, and the start of a frame that the
transmitter can begin. The row of a malformed RESET or PATH CONTROL is the model's choice (log entry 6). -/
def Obligations.StepWithNothingWaiting : Prop :=
  ∀ s : State,
    (s.pending = [] →
      (due s = [] → step s = .next (tick s)) ∧
      (∀ c, due s = [c] → step s = .next (s.withPending [c])) ∧
      (∀ c d more, due s = c :: d :: more →
        ∃ x ∈ due s, step s = .next { s with pending := [x], choices := s.choices + 1 })) ∧
    (∀ c, c ∈ due s ↔ s.run = .running ∧ OwnEventDue s c) ∧
    (∀ h, Instr.firing h ∈ due s ↔ s.run = .running ∧ (firableEntry h s).isSome = true) ∧
    (∀ r, headRequest s = some r ↔ s.run = .running ∧ TakesNext s r)

/-- No command ever stops the part, and none touches the queue of waiting commands. The model's choice (log entry 5): without
a supply or in reset, only the power and RESET_N commands do anything. -/
def Obligations.EveryCommandAnswersANextState : Prop :=
  (∀ (c : Instr) (s : State), ∃ t, exec c s = .next t ∧ t.pending = s.pending) ∧
  (∀ (c : Instr) (s : State), s.run ≠ .running → (∀ pins, c ≠ .powerOn pins) → c ≠ .resetNLow →
    (∀ pins, c ≠ .resetNRelease pins) → c ≠ .powerOff → exec c s = .next s)

/-! ## Power and resets -/

/-- POWER_ON, RESET_N_LOW, RESET_N_RELEASE and POWER_OFF. The model's choices: the level of a capture line in reset, before
its first sample (log entry 2); that RESET_N_LOW without a supply and RESET_N_RELEASE out of reset do nothing (log entry 5);
the empty queues in reset, and what POWER_OFF leaves in the registers (log entry 15); that POWER_ON acts in every state (log
entry 16); that the elapsed clock is kept (log entry 20); and that a break in progress ends at the reset (log entry 34). -/
def Obligations.PowerAndResetPin : Prop :=
  (∀ pins s, ∃ t, exec (.powerOn pins) s = .next t ∧ Restarted .power .power false pins s t) ∧
  (∀ s, s.run ≠ .off → ∃ t, exec .resetNLow s = .next t ∧ t.run = .inReset ∧
    AtPowerOn ⟨.low, .low, .low, .low, .low, .low⟩ t ∧ t.link.requests = [] ∧ t.link.outbound = [] ∧
    t.link.cache = [] ∧ t.link.tx = none ∧ t.link.partPending = false ∧ t.elapsed = s.elapsed ∧
    t.pending = s.pending) ∧
  (∀ s, s.run = .off → exec .resetNLow s = .next s) ∧
  (∀ pins s, s.run = .inReset →
    ∃ t, exec (.resetNRelease pins) s = .next t ∧ Restarted .pin .pin false pins s t) ∧
  (∀ pins s, s.run ≠ .inReset → exec (.resetNRelease pins) s = .next s) ∧
  (∀ s, exec .powerOff s = .next { s with run := .off, link := { s.link with tx := none } })

/-- A PART reset is completed when the last byte of its reply has been sent, at a break that finds the reply unsent, or when
a break has stopped the reply. That a break puts the receiver in HUNT when it is detected (log entry 17), and that the elapsed
clock goes on (log entry 20), is the model's reading. -/
def Obligations.PartResetCompletes : Prop :=
  ∀ (pins : PinSample) (s : State), s.run = .running →
    (∀ frame, s.link.tx = some ⟨frame, true, false⟩ →
      ∃ t, exec (.frameTransmitEnd pins) s = .next t ∧
        Restarted .partRequest .partRequest s.link.inBreak pins s t) ∧
    (∀ frame, s.link.tx = some ⟨frame, true, true⟩ →
      ∃ t, exec (.transmitterStops pins) s = .next t ∧
        Restarted .partRequest .partRequest s.link.inBreak pins s t) ∧
    (s.link.partPending = true → s.link.inBreak = false → sendingPartReply s.link = false →
      ∃ t, exec (.linkBreak pins) s = .next t ∧ Restarted .partRequest .partRequest true pins s t) ∧
    (s.link.partPending = true → s.link.inBreak = false → ∀ frame stopping,
      s.link.tx = some ⟨frame, true, stopping⟩ →
      exec (.linkBreak pins) s =
        .next
          { s with link :=
            { s.link with rx := .hunt, rxBytes := [], inBreak := true, tx := some ⟨frame, true, true⟩ } })

/-- RESET of scope SCHEDULE: every entry goes without a record, every trailing edge is cancelled, SCHEDULED lines go to their
idle level, and nothing else changes. -/
def Obligations.ResetScheduleEmptiesTheSchedule : Prop :=
  ∀ (s : State) (r : Request), headRequest s = some r → r.kind = 0x02#8 → r.payload = [0x00#8] →
    ∃ t, AnsweredWith .resetSchedule r (okReply [0x00#8]) t s ∧
      t = { dequeueRequest s with sched := t.sched, lines := t.lines } ∧
      t.sched.entries = [] ∧ t.sched.admissions = s.sched.admissions ∧
      ∀ i : Fin 8, t.lines[i] = IdledLine s.lines[i]

/-- RESET of scope JOURNAL: the records, the overrun and the delivered count go, the counter and the threshold stay, and the
two journal kinds become QUIET. -/
def Obligations.ResetJournalEmptiesTheJournal : Prop :=
  ∀ (s : State) (r : Request), headRequest s = some r → r.kind = 0x02#8 → r.payload = [0x01#8] →
    ∃ t, AnsweredWith .resetJournal r (okReply [0x01#8]) t s ∧
      t = { dequeueRequest s with journal := t.journal, attn := t.attn } ∧
      t.journal = ⟨[], s.journal.seqCounter, 0, false, 0, ⟨0, 0⟩, s.journal.threshold⟩ ∧
      t.attn.subscribed = s.attn.subscribed ∧ t.attn.stateOf .journalLevel = .quiet ∧
      t.attn.stateOf .journalOverrun = .quiet ∧
      ∀ k, k ≠ .journalLevel → k ≠ .journalOverrun → t.attn.stateOf k = s.attn.stateOf k

/-- RESET of scope TIMESCALE: the seconds become 0 and the tick count stays, the time is UNSET, load and slew are gone, the
discontinuity of cause UNSET is declared, and the schedule and the lines are reset as by scope SCHEDULE. A free-running second
goes on with what is left of its frequency correction (log entries 4 and 8). -/
def Obligations.ResetTimescaleUnsetsTheTime : Prop :=
  ∀ (s : State) (r : Request), headRequest s = some r → r.kind = 0x02#8 → r.payload = [0x02#8] →
    ∃ t, AnsweredWith .resetTimescale r (okReply [0x02#8]) t s ∧
      t.ts.now = ⟨0, s.ts.now.tick⟩ ∧ t.ts.timeState = .unset ∧ t.ts.era = s.ts.era + 1 ∧
      t.ts.stagedLoad = none ∧ t.ts.remainingSlew = 0 ∧ t.ts.slewAmount = 0 ∧ t.ts.slewLeft = 0 ∧
      t.ts.freeRun.slew = 0 ∧ (s.ts.freeRun.slew = 0 → t.ts.freeRun = s.ts.freeRun) ∧
      (s.ts.freeRun.slew ≠ 0 →
        ∃ left rest : Int, SplitOf s.ts left rest ∧ t.ts.freeRun = ⟨0, rest, s.ts.now.tick, 0⟩) ∧
      t.ts.phaseOffset = s.ts.phaseOffset ∧ t.ts.freqRemainder = s.ts.freqRemainder ∧
      t.ts.hold = s.ts.hold ∧ t.ts.switchPending = s.ts.switchPending ∧
      t.journal =
        journalAfter (s.ts.era + 1) ⟨0, s.ts.now.tick⟩ (.era (s.ts.era + 1) .unset) s.journal ∧
      t.attn.stateOf .era = (s.attn.stateOf .era).whenRaised ∧ t.attn.subscribed = s.attn.subscribed ∧
      t.sched.entries = [] ∧ t.sched.admissions = s.sched.admissions ∧
      (∀ i : Fin 8, t.lines[i] = IdledLine s.lines[i]) ∧
      t.disc = s.disc ∧ t.monA = s.monA ∧ t.monB = s.monB ∧ t.caps = s.caps ∧ t.run = s.run ∧
      t.elapsed = s.elapsed ∧ t.link.requests = s.link.requests.tail

/-- RESET of scope PART: the reply is queued and cached, the waiting requests are discarded, PART becomes pending, and from
then on no request is taken and no frame accepted. A RESET without a scope is MALFORMED (under any of the four rows: log
entry 6). -/
def Obligations.ResetPartWindsTheLinkDown : Prop :=
  ∀ (s : State) (r : Request), headRequest s = some r → r.kind = 0x02#8 →
    (r.payload = [0x03#8] →
      ∃ t, exec .resetPart s = .next t ∧
        t =
          { s with link :=
            { s.link with
              requests := []
              partPending := true
              outbound := s.link.outbound ++ [.reply .partReset (replyFrame 0x02#8 r.seq (okReply [0x03#8]))]
              cache :=
                pushCache ⟨0x02#8, r.seq, r.crc, replyFrame 0x02#8 r.seq (okReply [0x03#8])⟩ s.link.cache } } ∧
        headRequest t = none ∧ ∀ q, acceptFrame q t = t) ∧
    (r.payload.length ≠ 1 ∨ 3 < byteAt 0 r.payload →
      RefusedWith .resetSchedule r .malformed s ∧ RefusedWith .resetJournal r .malformed s ∧
        RefusedWith .resetTimescale r .malformed s ∧ RefusedWith .resetPart r .malformed s)

/-! ## The timescale's requests -/

/-- The five queries without fields change nothing and answer OK with their report; with a payload they are MALFORMED. The
report of LIST SCHEDULE: the two counts, then the handles of the armed list in its order, then those of the waiting lists 0 to
3, each in its order. -/
def Obligations.QueriesReportAndChangeNothing : Prop :=
  (∀ (s : State) (r : Request), headRequest s = some r →
    (r.payload = [] →
      (r.kind = 0x01#8 → AnsweredWith .queryStatus r (okReply (statusBytes s)) (dequeueRequest s) s) ∧
      (r.kind = 0x03#8 → AnsweredWith .queryTime r (okReply (timeReport s)) (dequeueRequest s) s) ∧
      (r.kind = 0x0A#8 →
        AnsweredWith .queryPaths r (okReply (pathBlock s.monA ++ pathBlock s.monB)) (dequeueRequest s) s) ∧
      (r.kind = 0x0F#8 → AnsweredWith .listSchedule r (okReply (scheduleReport s.sched)) (dequeueRequest s) s) ∧
      (r.kind = 0x12#8 → AnsweredWith .queryLines r (okReply (linesReport s)) (dequeueRequest s) s)) ∧
    (r.payload ≠ [] →
      (r.kind = 0x01#8 → RefusedWith .queryStatus r .malformed s) ∧
      (r.kind = 0x03#8 → RefusedWith .queryTime r .malformed s) ∧
      (r.kind = 0x0A#8 → RefusedWith .queryPaths r .malformed s) ∧
      (r.kind = 0x0F#8 → RefusedWith .listSchedule r .malformed s) ∧
      (r.kind = 0x12#8 → RefusedWith .queryLines r .malformed s))) ∧
  ∀ c : Schedule, c.entries.length ≤ 64 → (∀ e ∈ c.entries, e.desc.handle ≤ 4095) →
    let b := scheduleReport c
    let waiting := c.waiting[0] ++ c.waiting[1] ++ c.waiting[2] ++ c.waiting[3]
    b.length = 2 + 2 * c.armed.length + 2 * waiting.length ∧ byteAt 0 b = c.armed.length ∧
    byteAt 1 b = waiting.length ∧
    (∀ i a, c.armed[i]? = some a → numAt (2 + 2 * i) 2 b = a.entry.desc.handle) ∧
    (∀ i e, waiting[i]? = some e → numAt (2 + 2 * c.armed.length + 2 * i) 2 b = e.desc.handle)

/-- From an offset on, every byte is 00h. -/
def Sys2Proof.Machine.zeroFrom (off : Nat) (b : List Byte) : Prop := ∀ i, off ≤ i → byteAt i b = 0

/-- The kind code and the kind part of a record (Tables 11.6 and 11.7), its spare bytes 00h (R185). -/
def Sys2Proof.Machine.KindPartAt (body : RecordBody) (b : List Byte) : Prop :=
  match body with
  | .capture line edge timeState discState =>
    byteAt 0 b = 1 ∧ byteAt 13 b = line.val ∧ byteAt 14 b = edge.code.toNat ∧ byteAt 15 b = timeState.code.toNat ∧
      byteAt 16 b = discState.code.toNat ∧ zeroFrom 17 b
  | .fired handle line action late cut occurrence =>
    byteAt 0 b = 2 ∧ (handle ≤ 65535 → numAt 13 2 b = handle) ∧ byteAt 15 b = line.val ∧
      byteAt 16 b = action.code.toNat ∧ byteAt 17 b = late.toNat ∧ byteAt 18 b = cut.toNat ∧
      (occurrence ≤ 65535 → numAt 19 2 b = occurrence) ∧ zeroFrom 21 b
  | .removed handle outcome occurrences =>
    byteAt 0 b = 3 ∧ (handle ≤ 65535 → numAt 13 2 b = handle) ∧ byteAt 15 b = outcome.code.toNat ∧
      (occurrences ≤ 65535 → numAt 16 2 b = occurrences) ∧ zeroFrom 18 b
  | .era newEra cause =>
    byteAt 0 b = 4 ∧ numAt 13 2 b = newEra.toNat ∧ byteAt 15 b = cause.code.toNat ∧ zeroFrom 16 b
  | .path path old new fault selected =>
    byteAt 0 b = 5 ∧ byteAt 13 b = (pathCode (some path)).toNat ∧ byteAt 14 b = old.code.toNat ∧
      byteAt 15 b = new.code.toNat ∧ byteAt 16 b = (faultCode fault).toNat ∧ byteAt 17 b = selected.toNat ∧
      zeroFrom 18 b
  | .discipline old new selected =>
    byteAt 0 b = 6 ∧ byteAt 13 b = old.code.toNat ∧ byteAt 14 b = new.code.toNat ∧
      byteAt 15 b = (pathCode selected).toNat ∧ zeroFrom 16 b
  | .gap missed first =>
    byteAt 0 b = 7 ∧ (missed ≤ 65535 → numAt 13 2 b = missed) ∧ (first.Valid → timeAt 15 b = first) ∧ zeroFrom 23 b

/-- The fields of QUERY STATUS, QUERY TIME, QUERY PATHS and QUERY LINES stand where Table 11.9 and its blocks put them, as do
the fields of a record of every kind (Tables 11.6 and 11.7), and every report and record has its fixed length. Numbers and time
values are sent most significant byte first. The CRC of the digits 1 to 9 is 29B1h, and 1000:62500000 is sent as the manual
writes it. The model's choice: a trailing edge that has run out, whose expiry has yet to be taken, is reported as present with 0
ticks left (log entry 29). -/
def Obligations.ReportsHaveTheirLayout : Prop :=
  crcOf [0x31#8, 0x32#8, 0x33#8, 0x34#8, 0x35#8, 0x36#8, 0x37#8, 0x38#8, 0x39#8] = 0x29B1#16 ∧
  timeBytes ⟨1000, 62500000⟩ = [0x00#8, 0x00#8, 0x00#8, 0x1F#8, 0x43#8, 0xB9#8, 0xAC#8, 0xA0#8] ∧
  (∀ n v : Nat, (beBytes n v).length = n ∧ (v < 256 ^ n → beNat (beBytes n v) = v)) ∧
  (∀ v : TimeValue, (timeBytes v).length = 8 ∧ (v.Valid → timeAt 0 (timeBytes v) = v)) ∧
  (∀ s : State,
    let b := statusBytes s
    b.length = 27 ∧ numAt 0 2 b = 0x0F48 ∧ byteAt 2 b = 1 ∧ byteAt 3 b = s.link.startCause.code.toNat ∧
    byteAt 4 b = s.ts.timeState.code.toNat ∧ byteAt 5 b = s.disc.state.code.toNat ∧
    byteAt 6 b = (pathCode s.disc.selected).toNat ∧ numAt 7 2 b = s.ts.era.toNat ∧
    (s.sched.armed.length ≤ 64 → byteAt 9 b = s.sched.armed.length) ∧
    (s.sched.allWaiting.length ≤ 64 → byteAt 10 b = s.sched.allWaiting.length) ∧
    (s.journal.records.length ≤ 256 → numAt 11 2 b = s.journal.records.length) ∧
    byteAt 13 b = s.journal.overrun.toNat ∧
    (∀ k : AttnKind, byteAt (14 + k.idx.val) b = (s.attn.stateOf k).code.toNat) ∧
    (∀ k : AttnKind, (byteAt 21 b).testBit k.idx.val = s.attn.isSubscribed k) ∧
    (s.link.totals.length ≤ 255 → byteAt 22 b = s.link.totals.length) ∧
    (s.link.totals.truncated ≤ 255 → byteAt 23 b = s.link.totals.truncated) ∧
    (s.link.totals.crc ≤ 255 → byteAt 24 b = s.link.totals.crc) ∧
    (s.link.totals.overrun ≤ 255 → byteAt 25 b = s.link.totals.overrun) ∧
    byteAt 26 b = (linkErrorCode s.link.lastError).toNat) ∧
  (∀ s : State,
    let b := timeReport s
    b.length = 42 ∧ (s.ts.now.Valid → timeAt 0 b = s.ts.now) ∧ byteAt 8 b = s.ts.timeState.code.toNat ∧
    numAt 9 2 b = s.ts.era.toNat ∧ byteAt 11 b = s.disc.state.code.toNat ∧
    byteAt 12 b = (pathCode s.disc.selected).toNat ∧ byteAt 13 b = s.ts.stagedLoad.isSome.toNat ∧
    (s.ts.stagedLoad = none → numAt 14 5 b = 0) ∧
    (∀ v, s.ts.stagedLoad = some v → v ≤ 137438953471 → numAt 14 5 b = v) ∧
    byteAt 19 b = (if s.ts.remainingSlew < 0 then 1 else 0) ∧
    (s.ts.remainingSlew.natAbs ≤ 62500000 → timeAt 20 b = ⟨0, s.ts.remainingSlew.natAbs⟩) ∧
    byteAt 28 b = (if s.ts.phaseOffset < 0 then 1 else 0) ∧
    (s.ts.phaseOffset.natAbs ≤ 62500000 → timeAt 29 b = ⟨0, s.ts.phaseOffset.natAbs⟩) ∧
    byteAt 37 b = (if s.disc.freqEstimate < 0 then 1 else 0) ∧
    (s.disc.freqEstimate.natAbs ≤ 100000 → numAt 38 4 b = s.disc.freqEstimate.natAbs)) ∧
  (∀ m : Monitor, MonitorOk m →
    let b := pathBlock m
    b.length = 32 ∧ byteAt 0 b = m.state.code.toNat ∧ byteAt 1 b = m.config.rate.val ∧
    numAt 2 4 b = m.config.tolerance ∧ numAt 6 2 b = m.config.skewLimit ∧ byteAt 8 b = m.config.qualifyMarks ∧
    byteAt 9 b = m.config.recoverMarks ∧ byteAt 10 b = m.config.failFaults ∧
    byteAt 11 b = m.config.autoRestart.toNat ∧ numAt 12 2 b = m.config.holdOffSeconds ∧
    byteAt 14 b = m.cleanCount ∧ byteAt 15 b = m.suspectCount ∧ byteAt 16 b = m.totals.earlyStep ∧
    byteAt 17 b = m.totals.missingStep ∧ byteAt 18 b = m.totals.missingMark ∧ byteAt 19 b = m.totals.residue ∧
    byteAt 20 b = m.totals.rate ∧ byteAt 21 b = m.totals.skew ∧ byteAt 22 b = m.lastFault.isSome.toNat ∧
    (m.lastFault = none → byteAt 23 b = 0 ∧ timeAt 24 b = ⟨0, 0⟩) ∧
    (∀ f, m.lastFault = some f →
      byteAt 23 b = (faultCode (some f.kind)).toNat ∧ (f.stamp.Valid → timeAt 24 b = f.stamp))) ∧
  (∀ s : State,
    let b := linesReport s
    b.length = 112 ∧
    (∀ i : Fin 8,
      byteAt (8 * i.val) b = s.lines[i].mode.code.toNat ∧ byteAt (8 * i.val + 1) b = (levelCode s.lines[i].idle).toNat ∧
      byteAt (8 * i.val + 2) b = (levelCode s.lines[i].level).toNat ∧
      byteAt (8 * i.val + 3) b = s.lines[i].trailing.isSome.toNat ∧
      (s.lines[i].trailing = none → numAt (8 * i.val + 4) 4 b = 0) ∧
      (∀ left, s.lines[i].trailing = some left → left ≤ 125000000 → numAt (8 * i.val + 4) 4 b = left)) ∧
    (∀ i : Fin 4,
      byteAt (64 + 12 * i.val) b = s.caps[i].select.code.toNat ∧
      (s.caps[i].deadTime ≤ 1250000 → timeAt (64 + 12 * i.val + 1) b = ⟨0, s.caps[i].deadTime⟩) ∧
      byteAt (64 + 12 * i.val + 9) b = s.caps[i].oneShot.toNat ∧
      byteAt (64 + 12 * i.val + 10) b = s.caps[i].record.toNat ∧
      byteAt (64 + 12 * i.val + 11) b = (levelCode s.caps[i].level).toNat)) ∧
  (∀ r : Record, (recordBytes r).length = 24 ∧ numAt 1 2 (recordBytes r) = r.seq.toNat ∧
    numAt 3 2 (recordBytes r) = r.era.toNat ∧ (r.stamp.Valid → timeAt 5 (recordBytes r) = r.stamp) ∧
    KindPartAt r.body (recordBytes r))

/-- The signed amount that the payload of ADJUST TIME or STEP TIME carries (R183, R186). -/
def Sys2Proof.Machine.payloadAmount (payload : List Byte) : Int :=
  if byteAt 0 payload = 1 then -((timeAt 1 payload).ticks : Int) else ((timeAt 1 payload).ticks : Int)

/-- SET TIME stages its seconds and reports whether a load was staged; CANCEL SET makes the load absent and reports whether
there was one; ADJUST TIME adds its signed amount to the remaining slew, within the limits of R10. -/
def Obligations.LoadAndSlewRequests : Prop :=
  ∀ (s : State) (r : Request), headRequest s = some r →
    (r.kind = 0x04#8 →
      (r.payload.length ≠ 5 → RefusedWith .setTime r .malformed s) ∧
      (r.payload.length = 5 → 137438953471 < beNat r.payload → RefusedWith .setTime r .range s) ∧
      (r.payload.length = 5 → beNat r.payload ≤ 137438953471 →
        AnsweredWith .setTime r (okReply [flagByte s.ts.stagedLoad.isSome])
          (setTs { s.ts with stagedLoad := some (beNat r.payload) } (dequeueRequest s)) s)) ∧
    (r.kind = 0x05#8 →
      (r.payload ≠ [] → RefusedWith .cancelSet r .malformed s) ∧
      (r.payload = [] →
        AnsweredWith .cancelSet r (okReply [flagByte s.ts.stagedLoad.isSome])
          (setTs { s.ts with stagedLoad := none } (dequeueRequest s)) s)) ∧
    (r.kind = 0x06#8 →
      (r.payload.length ≠ 9 ∨ 1 < byteAt 0 r.payload → RefusedWith .adjustTime r .malformed s) ∧
      (r.payload.length = 9 → byteAt 0 r.payload ≤ 1 →
        ((timeAt 1 r.payload).tick ≥ 125000000 ∨ (timeAt 1 r.payload).ticks > 62500000 ∨
            (s.ts.remainingSlew + payloadAmount r.payload).natAbs > 62500000 →
          RefusedWith .adjustTime r .range s) ∧
        ((timeAt 1 r.payload).tick < 125000000 → (timeAt 1 r.payload).ticks ≤ 62500000 →
          (s.ts.remainingSlew + payloadAmount r.payload).natAbs ≤ 62500000 →
          AnsweredWith .adjustTime r
            (okReply (signedDuration (s.ts.remainingSlew + payloadAmount r.payload)))
            (setTs { s.ts with remainingSlew := s.ts.remainingSlew + payloadAmount r.payload } (dequeueRequest s))
            s)))

/-- STEP TIME: its checks in order; a zero duration moves nothing; any other moves the time, declares the discontinuity and
hands the schedule the jump, after the ERA record. That a second boundary at the same instant is dropped unless the new tick
count is 0 is the model's choice (log entry 12). -/
def Obligations.StepTimeMovesTheTime : Prop :=
  ∀ (s : State) (r : Request), headRequest s = some r → r.kind = 0x07#8 →
    (r.payload.length ≠ 9 ∨ 1 < byteAt 0 r.payload → RefusedWith .stepTime r .malformed s) ∧
    (r.payload.length = 9 → byteAt 0 r.payload ≤ 1 →
      (s.ts.timeState = .unset → RefusedWith .stepTime r .notSet s) ∧
      (s.ts.timeState = .set → s.disc.state = .acquiring ∨ s.disc.state = .locked →
        RefusedWith .stepTime r .state s) ∧
      (s.ts.timeState = .set → s.disc.state = .free ∨ s.disc.state = .holdover →
        let target : Int := s.ts.now.lin + payloadAmount r.payload
        ((timeAt 1 r.payload).tick ≥ 125000000 ∨ target < 0 ∨ (wrapLin : Int) ≤ target →
          RefusedWith .stepTime r .range s) ∧
        ((timeAt 1 r.payload).tick < 125000000 → (timeAt 1 r.payload).ticks = 0 → 0 ≤ target →
          target < (wrapLin : Int) →
          AnsweredWith .stepTime r (okReply (timeBytes s.ts.now ++ beBytes 2 s.ts.era.toNat)) (dequeueRequest s)
            s) ∧
        ((timeAt 1 r.payload).tick < 125000000 → (timeAt 1 r.payload).ticks ≠ 0 → 0 ≤ target →
          target < (wrapLin : Int) →
          let new := TimeValue.ofLin target.toNat
          ∃ t, AnsweredWith .stepTime r (okReply (timeBytes new ++ beBytes 2 (s.ts.era + 1).toNat)) t s ∧
            t = stepTo (decide (byteAt 0 r.payload = 0)) new (dequeueRequest s) ∧
            t.ts =
              { s.ts with
                now := new
                era := s.ts.era + 1
                boundaryDue := s.ts.boundaryDue && decide (new.tick = 0) } ∧
            t.attn.stateOf .era = (s.attn.stateOf .era).whenRaised ∧ t.disc = s.disc ∧ t.monA = s.monA ∧ t.monB = s.monB ∧
            t.caps = s.caps ∧ t.run = s.run ∧ t.elapsed = s.elapsed ∧
            (byteAt 0 r.payload = 0 →
              ∃ mid, t = takeJump true s.ts.now new mid ∧ mid.ts = t.ts ∧ mid.sched = s.sched ∧
                mid.lines = s.lines ∧
                mid.journal = journalAfter (s.ts.era + 1) new (.era (s.ts.era + 1) .step) s.journal) ∧
            (byteAt 0 r.payload = 1 →
              t.sched.waiting = s.sched.waiting ∧ t.lines = s.lines ∧
              t.sched.armed.map (fun a => (a.entry, a.due)) = s.sched.armed.map (fun a => (a.entry, a.due)) ∧
              t.journal = journalAfter (s.ts.era + 1) new (.era (s.ts.era + 1) .step) s.journal))))

/-! ## The monitors' and the controller's requests -/

/-- SET PATH CONFIG: codes and length, then the ranges of Table 2.2, then the state; accepted, it replaces the configuration
of a DISABLED path and nothing else. Its fields stand where Table 11.9 puts them. That an unknown auto restart code is MALFORMED
is read from section 11.8 (log entry 22). -/
def Obligations.SetPathConfigNeedsADisabledPath : Prop :=
  ∀ (s : State) (r : Request), headRequest s = some r → r.kind = 0x08#8 →
    (readPathConfig r.payload = none → RefusedWith .setPathConfig r .malformed s) ∧
    (r.payload.length ≠ 14 ∨ 1 < byteAt 0 r.payload ∨ 6 < byteAt 1 r.payload ∨ 1 < byteAt 11 r.payload →
      readPathConfig r.payload = none) ∧
    (r.payload.length = 14 → byteAt 0 r.payload ≤ 1 → byteAt 1 r.payload ≤ 6 → byteAt 11 r.payload ≤ 1 →
      ∃ p c, readPathConfig r.payload = some (p, c)) ∧
    (∀ p c, readPathConfig r.payload = some (p, c) →
      byteAt 0 r.payload = (pathCode (some p)).toNat ∧ byteAt 1 r.payload = c.rate.val ∧
      c.tolerance = numAt 2 4 r.payload ∧ c.skewLimit = numAt 6 2 r.payload ∧ c.qualifyMarks = byteAt 8 r.payload ∧
      c.recoverMarks = byteAt 9 r.payload ∧ c.failFaults = byteAt 10 r.payload ∧
      byteAt 11 r.payload = c.autoRestart.toNat ∧ c.holdOffSeconds = numAt 12 2 r.payload) ∧
    (∀ p c, readPathConfig r.payload = some (p, c) →
      let ranges := 1 ≤ c.tolerance ∧ c.tolerance ≤ 125000000 / 10 ^ c.rate.val / 4 ∧ 1 ≤ c.skewLimit ∧
        c.skewLimit ≤ 12500 ∧ 1 ≤ c.qualifyMarks ∧ c.qualifyMarks ≤ 15 ∧ 1 ≤ c.recoverMarks ∧
        c.recoverMarks ≤ 15 ∧ 1 ≤ c.failFaults ∧ c.failFaults ≤ 15 ∧ 1 ≤ c.holdOffSeconds ∧
        c.holdOffSeconds ≤ 3600
      (¬ ranges → RefusedWith .setPathConfig r .range s) ∧
      (ranges → (s.mon p).state ≠ .disabled → RefusedWith .setPathConfig r .state s) ∧
      (ranges → (s.mon p).state = .disabled →
        AnsweredWith .setPathConfig r (okReply []) (setMon p { s.mon p with config := c } (dequeueRequest s)) s))

/-- A monitor entering ABSENT with its faults forgotten (R44, R45): configuration kept, everything else cleared. -/
def Sys2Proof.Machine.freshMonitor (m : Monitor) : Monitor :=
  ⟨m.config, .absent, none, none, 0, none, none, false, false, 0, 0, none, none, ⟨0, 0, 0, 0, 0, 0⟩, none⟩

/-- A monitor entering DISABLED (R46): configuration, totals and last fault kept, everything else cleared. -/
def Sys2Proof.Machine.disabledMonitor (m : Monitor) : Monitor :=
  ⟨m.config, .disabled, none, none, 0, none, none, false, false, 0, 0, none, none, m.totals, m.lastFault⟩

/-- PATH CONTROL: RESTART, ENABLE and DISABLE on either path in every state; a change of state is handed on. A malformed PATH
CONTROL is refused under any of the three rows (log entry 6). -/
def Obligations.PathControlMovesThePath : Prop :=
  ∀ (s : State) (r : Request), headRequest s = some r → r.kind = 0x09#8 →
    (r.payload.length ≠ 2 ∨ 1 < byteAt 0 r.payload ∨ 2 < byteAt 1 r.payload →
      RefusedWith .pathControlRestart r .malformed s ∧ RefusedWith .pathControlEnable r .malformed s ∧
        RefusedWith .pathControlDisable r .malformed s) ∧
    ∀ p : Path,
      let m := s.mon p
      let s0 := dequeueRequest s
      (r.payload = [pathCode (some p), 0x00#8] →
        (m.state = .disabled → RefusedWith .pathControlRestart r .state s) ∧
        (m.state = .absent →
          AnsweredWith .pathControlRestart r (okReply [0x01#8]) (setMon p (freshMonitor m) s0) s) ∧
        (m.state ≠ .disabled → m.state ≠ .absent →
          AnsweredWith .pathControlRestart r (okReply [0x01#8])
            (handOnPath p m.state none (setMon p (freshMonitor m) s0)) s)) ∧
      (r.payload = [pathCode (some p), 0x01#8] →
        (m.state = .disabled →
          AnsweredWith .pathControlEnable r (okReply [0x01#8])
            (handOnPath p .disabled none (setMon p (freshMonitor m) s0)) s) ∧
        (m.state ≠ .disabled → AnsweredWith .pathControlEnable r (okReply [m.state.code]) s0 s)) ∧
      (r.payload = [pathCode (some p), 0x02#8] →
        (m.state = .disabled → AnsweredWith .pathControlDisable r (okReply [0x00#8]) s0 s) ∧
        (m.state ≠ .disabled →
          AnsweredWith .pathControlDisable r (okReply [0x00#8])
            (handOnPath p m.state none (setMon p (disabledMonitor m) s0)) s))

/-- SET DISCIPLINE CONFIG: codes and length, then ranges; accepted, it stores the configuration, judges the holdover timer
against the new limit and evaluates the selection. Its fields stand where Table 11.9 puts them. Where the expiry of an unchanged
limit meets a gain, either is taken first (R62, log entry 3), and both orders end in the same controller. -/
def Obligations.SetDisciplineConfigTakesEffect : Prop :=
  ∀ (s : State) (r : Request), headRequest s = some r → r.kind = 0x0B#8 →
    (readDiscConfig r.payload = none → RefusedWith .setDisciplineConfig r .malformed s) ∧
    (r.payload.length ≠ 13 ∨ 4 < byteAt 0 r.payload ∨ 1 < byteAt 1 r.payload ∨ 1 < byteAt 6 r.payload →
      readDiscConfig r.payload = none) ∧
    (r.payload.length = 13 → byteAt 0 r.payload ≤ 4 → byteAt 1 r.payload ≤ 1 → byteAt 6 r.payload ≤ 1 →
      ∃ c, readDiscConfig r.payload = some c) ∧
    (∀ c, readDiscConfig r.payload = some c →
      (c.policy = .preferA ↔ byteAt 0 r.payload = 0) ∧ (c.policy = .preferB ↔ byteAt 0 r.payload = 1) ∧
      (c.policy = .onlyA ↔ byteAt 0 r.payload = 2) ∧ (c.policy = .onlyB ↔ byteAt 0 r.payload = 3) ∧
      (c.policy = .none ↔ byteAt 0 r.payload = 4) ∧ byteAt 1 r.payload = c.revertive.toNat ∧
      c.holdoverLimit = numAt 2 4 r.payload ∧ (c.acquireMode = .jumpOverLimit ↔ byteAt 6 r.payload = 0) ∧
      (c.acquireMode = .alwaysSlew ↔ byteAt 6 r.payload = 1) ∧ c.acquireSlewLimit = numAt 7 4 r.payload ∧
      c.slewRate = numAt 11 2 r.payload) ∧
    (∀ c, readDiscConfig r.payload = some c →
      let ranges := c.holdoverLimit ≤ 86400 ∧ c.acquireSlewLimit ≤ 62500000 ∧ 1 ≤ c.slewRate ∧ c.slewRate ≤ 6250
      let stored := setDisc { s.disc with config := c } (dequeueRequest s)
      let meets := c.holdoverLimit = s.disc.config.holdoverLimit ∧ c.holdoverLimit ≠ 0 ∧
        s.disc.state = .holdover ∧ s.disc.selected = none ∧ chosenPath stored ≠ none ∧
        ∃ count, s.disc.holdoverTimer = some count ∧ c.holdoverLimit * 125000000 ≤ count
      (¬ ranges → RefusedWith .setDisciplineConfig r .range s) ∧
      (ranges →
        ∃ judged t,
          AnsweredWith .setDisciplineConfig r (okReply [t.disc.state.code, pathCode t.disc.selected]) t s ∧
          t.disc.config = c ∧
          (s.disc.holdoverTimer.isSome = true → c.holdoverLimit = 0 →
            judged = setDisc { stored.disc with holdoverTimer := none } stored) ∧
          (∀ count, s.disc.holdoverTimer = some count → c.holdoverLimit ≠ 0 →
            (c.holdoverLimit * 125000000 ≤ count → judged = expireHoldover stored) ∧
            (count < c.holdoverLimit * 125000000 → judged = stored)) ∧
          (s.disc.holdoverTimer = none → c.holdoverLimit ≠ 0 →
            s.disc.state = .holdover ∨ (s.disc.state = .acquiring ∧ s.disc.returnState = .holdover) →
            judged = setDisc { stored.disc with holdoverTimer := some 0 } stored) ∧
          (s.disc.holdoverTimer = none →
            c.holdoverLimit = 0 ∨
              ¬ (s.disc.state = .holdover ∨ (s.disc.state = .acquiring ∧ s.disc.returnState = .holdover)) →
            judged = stored) ∧
          (¬ meets → t = evaluate judged) ∧
          (meets →
            t.disc = ⟨c, .acquiring, chosenPath stored, .free, none, s.disc.freqEstimate⟩ ∧
            (t.journal =
                journalAfter s.ts.era s.ts.now (.discipline .holdover .acquiring (chosenPath stored)) s.journal ∨
              t.journal =
                journalAfter s.ts.era s.ts.now (.discipline .free .acquiring (chosenPath stored))
                  (journalAfter s.ts.era s.ts.now (.discipline .holdover .free none) s.journal)))))

/-! ## The schedule's requests -/

/-- Every field of a descriptor that is present lies in its range (R79, Table 4.6), each tick field below 125,000,000 (R184). -/
def Sys2Proof.Machine.DescriptorInRange (raw : RawDescriptor) : Prop :=
  1 ≤ raw.handle ∧ raw.handle ≤ 4095 ∧ raw.line < 8 ∧
    (raw.actionCode = 3 → raw.width.tick < 125000000 ∧ 1 ≤ raw.width.ticks ∧ raw.width.ticks ≤ 125000000) ∧
    raw.start.tick < 125000000 ∧
    (raw.trigger ≠ none →
      raw.triggerLine < 4 ∧ 125 ≤ raw.start.ticks ∧ raw.start.ticks ≤ 86400 * 125000000) ∧
    (raw.hasRepeat = true →
      raw.period.tick < 125000000 ∧ 1250 ≤ raw.period.ticks ∧ raw.period.ticks ≤ 86400 * 125000000 ∧
        (raw.actionCode = 3 → raw.width.ticks < raw.period.ticks))

/-- ADMIT ENTRY is checked in the order of Table 4.5, and the first check that fails decides the status. A descriptor passes
check 5 exactly when every present field lies in its range, tick fields and trigger line included, and what is stored is what
the request carried (R69). -/
def Obligations.AdmissionChecksInOrder : Prop :=
  ∀ (s : State) (r : Request), headRequest s = some r → r.kind = 0x0C#8 →
    (r.payload.length ≠ 38 ∨ 3 < byteAt 3 r.payload ∨ 1 < byteAt 4 r.payload ∨
        (byteAt 4 r.payload = 1 ∧ 1 < byteAt 6 r.payload) ∨ 1 < byteAt 7 r.payload ∨ 1 < byteAt 8 r.payload ∨
        1 < byteAt 9 r.payload ∨ 1 < byteAt 10 r.payload →
      RefusedWith .admitEntry r .malformed s) ∧
    (∀ raw, readDescriptor r.payload = some raw →
      (s.ts.timeState = .unset → RefusedWith .admitEntry r .notSet s) ∧
      (s.ts.timeState = .set → s.sched.holds raw.handle = true → RefusedWith .admitEntry r .duplicate s) ∧
      (s.ts.timeState = .set → s.sched.holds raw.handle = false → 64 ≤ s.sched.entries.length →
        RefusedWith .admitEntry r .full s) ∧
      (s.ts.timeState = .set → s.sched.holds raw.handle = false → s.sched.entries.length < 64 →
        (raw.checked = none → RefusedWith .admitEntry r .range s) ∧
        (∀ d, raw.checked = some d → s.lines[d.line].mode ≠ .scheduled → RefusedWith .admitEntry r .state s))) ∧
    (r.payload.length = 38 → byteAt 3 r.payload ≤ 3 → byteAt 4 r.payload ≤ 1 →
      (byteAt 4 r.payload = 1 → byteAt 6 r.payload ≤ 1) → byteAt 7 r.payload ≤ 1 → byteAt 8 r.payload ≤ 1 →
      byteAt 9 r.payload ≤ 1 → byteAt 10 r.payload ≤ 1 → ∃ raw, readDescriptor r.payload = some raw) ∧
    (∀ raw : RawDescriptor, (∃ d, raw.checked = some d) ↔ DescriptorInRange raw) ∧
    (∀ raw d, readDescriptor r.payload = some raw → raw.checked = some d →
      1 ≤ d.handle ∧ d.handle ≤ 4095 ∧ d.handle = raw.handle ∧ d.line.val = raw.line ∧
      (∀ w, d.action = .pulse w → 1 ≤ w ∧ w ≤ 125000000) ∧
      (∀ first, d.start = .timed first → first.tick < 125000000) ∧
      (∀ i offset mode, d.start = .triggered i offset mode → 125 ≤ offset ∧ offset ≤ 86400 * 125000000) ∧
      (∀ q, d.rep = some q → 1250 ≤ q.period ∧ q.period ≤ 86400 * 125000000 ∧
        ∀ w, d.action = .pulse w → w < q.period)) ∧
    (∀ raw, readDescriptor r.payload = some raw →
      raw.handle = numAt 0 2 r.payload ∧ raw.line = byteAt 2 r.payload ∧ raw.actionCode = byteAt 3 r.payload ∧
      (raw.trigger = none ↔ byteAt 4 r.payload = 0) ∧ raw.triggerLine = byteAt 5 r.payload ∧
      (∀ mode, raw.trigger = some mode → (mode = .every ↔ byteAt 6 r.payload = 1)) ∧
      (raw.hasRepeat = true ↔ byteAt 7 r.payload = 1) ∧ (raw.latePolicy = .skip ↔ byteAt 8 r.payload = 1) ∧
      (raw.reportFirings = true ↔ byteAt 9 r.payload = 1) ∧ (raw.reportRemoval = true ↔ byteAt 10 r.payload = 1) ∧
      raw.width = timeAt 12 r.payload ∧ raw.start = timeAt 20 r.payload ∧ raw.period = timeAt 28 r.payload ∧
      raw.count = numAt 36 2 r.payload) ∧
    (∀ (raw : RawDescriptor) (i : Fin 8), DescriptorInRange raw → raw.line = i.val → raw.actionCode ≤ 3 →
      ∃ d, raw.checked = some d ∧ d.handle = raw.handle ∧ d.line = i ∧ (raw.actionCode = 0 → d.action = .rise) ∧
        (raw.actionCode = 1 → d.action = .fall) ∧ (raw.actionCode = 2 → d.action = .toggle) ∧
        (raw.actionCode = 3 → d.action = .pulse raw.width.ticks) ∧
        (raw.trigger = none → d.start = .timed raw.start) ∧
        (∀ mode, raw.trigger = some mode →
          ∃ j : Fin 4, j.val = raw.triggerLine ∧ d.start = .triggered j raw.start.ticks mode) ∧
        (raw.hasRepeat = false → d.rep = none) ∧
        (raw.hasRepeat = true → d.rep = some ⟨raw.period.ticks, raw.count⟩) ∧ d.latePolicy = raw.latePolicy ∧
        d.reportFirings = raw.reportFirings ∧ d.reportRemoval = raw.reportRemoval)

/-- An admission on time: a TIMED entry joins the armed list at its first due time, a TRIGGERED entry the tail of its waiting
list, with no record and no attention. One of a TIMED entry that is late disposes of the passed occurrences at once, under
FIRE and under SKIP. -/
def Obligations.AdmissionTakesEffect : Prop :=
  ∀ (s : State) (r : Request) (d : Descriptor), PassesSixChecks s r d →
    let e := AdmittedEntry s d
    let counted := countAdmission (dequeueRequest s)
    let number := beBytes 4 ((s.sched.admissions + 1) % 2 ^ 32)
    (∀ first, d.start = .timed first → s.ts.now.lin < first.lin →
      AnsweredWith .admitEntry r
        (okReply (0x00#8 :: (timeBytes first ++ beBytes 2 d.burstCount) ++ number ++ [0x00#8]))
        (arm ⟨e, first, 0⟩ counted) s) ∧
    (∀ i offset mode, d.start = .triggered i offset mode →
      AnsweredWith .admitEntry r
        (okReply (0x01#8 :: (timeBytes ⟨0, 0⟩ ++ beBytes 2 d.burstCount) ++ number ++ [0x00#8]))
        (joinWaiting i e counted) s) ∧
    (∀ first, d.start = .timed first → first.lin ≤ s.ts.now.lin →
      let fired := fireAction true e counted
      let raised := raise .schedule fired.2
      let completed := okReply (0x02#8 :: (timeBytes ⟨0, 0⟩ ++ beBytes 2 0) ++ number ++ [0x01#8])
      (d.rep = none →
        (d.latePolicy = .fire →
          AnsweredWith .admitEntry r completed (reportRemoved .complete fired.1 raised) s) ∧
        (d.latePolicy = .skip → RefusedWith .admitEntry r .late s)) ∧
      (∀ q, d.rep = some q →
        let n := (s.ts.now.lin - first.lin) / q.period + 1
        let due := first.lin + n * q.period
        let left := if q.count = 0 then 0 else q.count - n
        let rearmed (x : Entry) : ArmedEntry :=
          ⟨{ x with remaining := left }, TimeValue.ofLin due, (due / wrapLin : Nat)⟩
        let accepted :=
          okReply (0x00#8 :: (timeBytes (TimeValue.ofLin due) ++ beBytes 2 left) ++ number ++ [0x01#8])
        (q.count ≠ 0 → q.count ≤ n →
          (d.latePolicy = .fire →
            AnsweredWith .admitEntry r completed (reportRemoved .complete fired.1 raised) s) ∧
          (d.latePolicy = .skip → RefusedWith .admitEntry r .late s)) ∧
        (q.count = 0 ∨ n < q.count →
          (d.latePolicy = .fire → AnsweredWith .admitEntry r accepted (arm (rearmed fired.1) raised) s) ∧
          (d.latePolicy = .skip →
            AnsweredWith .admitEntry r accepted (raise .schedule (arm (rearmed e) counted)) s))))

/-- An entry descriptor at the head of a reply (Table 11.5), the bytes of absent parts and the spare byte 00h (R185). -/
def Sys2Proof.Machine.DescriptorAt (d : Descriptor) (b : List Byte) : Prop :=
  (d.handle ≤ 65535 → numAt 0 2 b = d.handle) ∧ byteAt 2 b = d.line.val ∧ byteAt 3 b = d.action.code.toNat ∧
    (∀ first, d.start = .timed first →
      byteAt 4 b = 0 ∧ byteAt 5 b = 0 ∧ byteAt 6 b = 0 ∧ (first.Valid → timeAt 20 b = first)) ∧
    (∀ i offset mode, d.start = .triggered i offset mode →
      byteAt 4 b = 1 ∧ byteAt 5 b = i.val ∧ byteAt 6 b = (if mode = .every then 1 else 0) ∧
        (offset < wrapLin → timeAt 20 b = TimeValue.ofLin offset)) ∧
    byteAt 7 b = d.rep.isSome.toNat ∧ byteAt 8 b = (if d.latePolicy = .skip then 1 else 0) ∧
    byteAt 9 b = d.reportFirings.toNat ∧ byteAt 10 b = d.reportRemoval.toNat ∧ byteAt 11 b = 0 ∧
    (∀ w, d.action = .pulse w → w < wrapLin → timeAt 12 b = TimeValue.ofLin w) ∧
    ((∀ w, d.action ≠ .pulse w) → timeAt 12 b = ⟨0, 0⟩) ∧
    (∀ q, d.rep = some q →
      (q.period < wrapLin → timeAt 28 b = TimeValue.ofLin q.period) ∧ (q.count ≤ 65535 → numAt 36 2 b = q.count)) ∧
    (d.rep = none → timeAt 28 b = ⟨0, 0⟩ ∧ numAt 36 2 b = 0)

/-- The present parts of an entry (section 11.7): bit 0 width, bit 1 first due time, bit 2 the trigger fields, bit 3 the
repeat, and no other bit. -/
def Sys2Proof.Machine.PartsPresent (d : Descriptor) (parts : Nat) : Prop :=
  parts < 16 ∧ (parts.testBit 0 = true ↔ ∃ w, d.action = .pulse w) ∧
    (parts.testBit 1 = true ↔ ∃ first, d.start = .timed first) ∧
    (parts.testBit 2 = true ↔ ∃ i offset mode, d.start = .triggered i offset mode) ∧ parts.testBit 3 = d.rep.isSome

/-- WITHDRAW ENTRY removes the entry from its list with outcome WITHDRAWN; QUERY ENTRY reports it, with its fields where Tables
11.5 and 11.9 put them; a handle that is not present gives NO_SUCH_HANDLE. -/
def Obligations.WithdrawAndQueryEntry : Prop :=
  (∀ (s : State) (r : Request), headRequest s = some r →
    (r.kind = 0x0D#8 →
      (r.payload.length ≠ 2 → RefusedWith .withdrawEntry r .malformed s) ∧
      (r.payload.length = 2 →
        (s.sched.find (beNat r.payload) = none → RefusedWith .withdrawEntry r .noSuchHandle s) ∧
        (∀ e due, s.sched.find (beNat r.payload) = some (e, due) →
          AnsweredWith .withdrawEntry r (okReply (beBytes 2 e.occurrences))
            (reportRemoved .withdrawn e (removeEntry (beNat r.payload) (dequeueRequest s))) s))) ∧
    (r.kind = 0x0E#8 →
      (r.payload.length ≠ 2 → RefusedWith .queryEntry r .malformed s) ∧
      (r.payload.length = 2 →
        (s.sched.find (beNat r.payload) = none → RefusedWith .queryEntry r .noSuchHandle s) ∧
        (∀ e due, s.sched.find (beNat r.payload) = some (e, due) →
          AnsweredWith .queryEntry r (okReply (entryReport e due)) (dequeueRequest s) s))) ∧
    (∀ h, (s.sched.find h = none ↔ s.sched.holds h = false) ∧
      (removeEntry h s).sched.holds h = false ∧ (removeEntry h s).lines = s.lines ∧
      ∀ e, e.desc.handle ≠ h → (e ∈ (removeEntry h s).sched.entries ↔ e ∈ s.sched.entries))) ∧
  ∀ (e : Entry) (due : Option TimeValue),
    let b := entryReport e due
    b.length = 56 ∧ DescriptorAt e.desc b ∧ PartsPresent e.desc (byteAt 38 b) ∧
    (due = none → byteAt 39 b = 1 ∧ timeAt 40 b = ⟨0, 0⟩) ∧
    (∀ v, due = some v → byteAt 39 b = 0 ∧ (v.Valid → timeAt 40 b = v)) ∧
    (e.remaining ≤ 65535 → numAt 48 2 b = e.remaining) ∧ (e.occurrences ≤ 65535 → numAt 50 2 b = e.occurrences) ∧
    numAt 52 4 b = e.admission % 2 ^ 32

/-! ## The lines' requests -/

/-- SET LINE CONFIG: MALFORMED, RANGE, STATE in that order; accepted, mode and idle level are replaced and the level kept.
DRIVE LINE sets the level of a MANUAL line at the instant it is taken, the pin with it once the instant is over (log entry
24), and is refused on any other. SET CAPTURE CONFIG: codes and length, then line and dead time; accepted, it replaces the four
fields and leaves the timer and the input level. The fields of the three stand where Table 11.9 puts them. -/
def Obligations.LineAndCaptureRequestsActOnTheirLine : Prop :=
  ∀ (s : State) (r : Request), headRequest s = some r →
    (r.kind = 0x10#8 →
      (r.payload.length ≠ 3 ∨ 2 < byteAt 1 r.payload ∨ 1 < byteAt 2 r.payload →
        RefusedWith .setLineConfig r .malformed s) ∧
      (r.payload.length = 3 → byteAt 1 r.payload ≤ 2 → byteAt 2 r.payload ≤ 1 →
        ∃ mode idle, readLineConfig r.payload = some (byteAt 0 r.payload, mode, idle) ∧
          mode.code.toNat = byteAt 1 r.payload ∧ (levelCode idle).toNat = byteAt 2 r.payload) ∧
      (∀ line mode idle, readLineConfig r.payload = some (line, mode, idle) →
        (8 ≤ line → RefusedWith .setLineConfig r .range s) ∧
        (∀ i : Fin 8, i.val = line →
          let l := s.lines[i]
          let held := (∃ e ∈ s.sched.entries, e.desc.line = i) ∨ l.trailing.isSome = true
          ((mode ≠ l.mode ∨ idle ≠ l.idle) → held → RefusedWith .setLineConfig r .state s) ∧
          (((mode = l.mode ∧ idle = l.idle) ∨ ¬ held) →
            AnsweredWith .setLineConfig r (okReply [mode.code, levelCode idle, levelCode l.level])
              (setLine i ⟨mode, idle, l.level, l.trailing⟩ (dequeueRequest s)) s)))) ∧
    (r.kind = 0x11#8 →
      (r.payload.length ≠ 2 ∨ 1 < byteAt 1 r.payload → RefusedWith .driveLine r .malformed s) ∧
      (r.payload.length = 2 → byteAt 1 r.payload ≤ 1 →
        ∃ level, readDriveLine r.payload = some (byteAt 0 r.payload, level) ∧
          (levelCode level).toNat = byteAt 1 r.payload) ∧
      (∀ line level, readDriveLine r.payload = some (line, level) →
        (8 ≤ line → RefusedWith .driveLine r .range s) ∧
        (∀ i : Fin 8, i.val = line →
          (s.lines[i].mode ≠ .manual → RefusedWith .driveLine r .state s) ∧
          (s.lines[i].mode = .manual →
            AnsweredWith .driveLine r (okReply [levelCode level])
              (setLine i { s.lines[i] with level := level } (dequeueRequest s)) s ∧
            ∀ t, exec .driveLine s = .next t → instantOver t = true → outPin t i = some level)))) ∧
    (r.kind = 0x13#8 →
      (r.payload.length ≠ 12 ∨ 3 < byteAt 1 r.payload ∨ 1 < byteAt 10 r.payload ∨ 1 < byteAt 11 r.payload →
        RefusedWith .setCaptureConfig r .malformed s) ∧
      (r.payload.length = 12 → byteAt 1 r.payload ≤ 3 → byteAt 10 r.payload ≤ 1 → byteAt 11 r.payload ≤ 1 →
        ∃ select oneShot record,
          readCaptureConfig r.payload = some (byteAt 0 r.payload, select, timeAt 2 r.payload, oneShot, record) ∧
          select.code.toNat = byteAt 1 r.payload ∧ oneShot.toNat = byteAt 10 r.payload ∧
          record.toNat = byteAt 11 r.payload) ∧
      (∀ line select dead oneShot record,
        readCaptureConfig r.payload = some (line, select, dead, oneShot, record) →
        (4 ≤ line ∨ dead.sec ≠ 0 ∨ 1250000 < dead.tick → RefusedWith .setCaptureConfig r .range s) ∧
        (∀ i : Fin 4, i.val = line → dead.sec = 0 → dead.tick ≤ 1250000 →
          let new : CapLine := ⟨select, dead.tick, oneShot, record, s.caps[i].timer, s.caps[i].level⟩
          AnsweredWith .setCaptureConfig r
            (okReply
              ([select.code] ++ timeBytes ⟨0, dead.tick⟩ ++ [flagByte oneShot, flagByte record]))
            (setCap i new (dequeueRequest s)) s)))

/-! ## The journal's and the attention unit's requests -/

/-- READ JOURNAL: its three checks; then the release, the GAP record that ends an overrun, the records returned without
removal, and the new delivered count. The GAP record may raise JOURNAL_LEVEL, and queue a NOTICE for it. -/
def Obligations.ReadJournalReleasesAndReturns : Prop :=
  ∀ (s : State) (r : Request), headRequest s = some r → r.kind = 0x14#8 →
    (r.payload.length ≠ 2 → RefusedWith .readJournal r .malformed s) ∧
    (r.payload.length = 2 →
      let drop := byteAt 0 r.payload
      let most := byteAt 1 r.payload
      (9 < drop ∨ most = 0 ∨ 9 < most → RefusedWith .readJournal r .range s) ∧
      (s.journal.delivered < drop → RefusedWith .readJournal r .range s) ∧
      (drop ≤ 9 → 1 ≤ most → most ≤ 9 → drop ≤ s.journal.delivered →
        let left := s.journal.records.drop drop
        let gap : Record :=
          ⟨s.journal.seqCounter, s.ts.era, s.ts.now, .gap s.journal.missed s.journal.firstMissed⟩
        ∃ t, AnsweredWith .readJournal r
            (okReply
              (beBytes 2 t.journal.records.length ++ [flagByte t.journal.overrun]
                ++ beBytes 1 t.journal.delivered ++ ((t.journal.records.take most).map recordBytes).flatten))
            t s ∧
          t.journal.delivered = min most t.journal.records.length ∧
          (s.journal.overrun = false ∨ drop = 0 →
            t = { dequeueRequest s with
              journal := { s.journal with records := left, delivered := t.journal.delivered } }) ∧
          (s.journal.overrun = true → 1 ≤ drop →
            t = { dequeueRequest s with
              journal :=
                ⟨left ++ [gap], s.journal.seqCounter + 1, t.journal.delivered, false, 0, ⟨0, 0⟩,
                  s.journal.threshold⟩
              attn := t.attn
              link := { (dequeueRequest s).link with outbound := t.link.outbound } } ∧
            t.attn.subscribed = s.attn.subscribed ∧
            (∀ k, k ≠ .journalLevel → t.attn.stateOf k = s.attn.stateOf k) ∧
            (left.length + 1 = s.journal.threshold →
              t.attn.stateOf .journalLevel = (s.attn.stateOf .journalLevel).whenRaised ∧
              t.link.outbound = queueAfterRaise .journalLevel s.attn s.link.outbound) ∧
            (left.length + 1 ≠ s.journal.threshold →
              t.attn.stateOf .journalLevel = s.attn.stateOf .journalLevel ∧ t.link.outbound = s.link.outbound))))

/-- SET ATTENTION replaces the subscription set and the threshold; JOURNAL_LEVEL is raised where a lower threshold finds the
fill there, and a NOTICE is queued for a newly subscribed RAISED kind. ACK ATTENTION makes the named kinds QUIET; JOURNAL_LEVEL
is raised again if it was named and the fill still stands at or above the threshold. Either leaves the outbound queue as it was
but for one NOTICE at its tail, for a raise or a new subscription that calls for one and finds the notice place free. -/
def Obligations.AttentionRequestsSubscribeAndQuiet : Prop :=
  ∀ (s : State) (r : Request), headRequest s = some r →
    (r.kind = 0x15#8 →
      (r.payload.length ≠ 3 ∨ 127 < byteAt 0 r.payload → RefusedWith .setAttention r .malformed s) ∧
      (r.payload.length = 3 → byteAt 0 r.payload ≤ 127 →
        ∃ set, readAttention r.payload = some (set, numAt 1 2 r.payload) ∧
          ∀ k : AttnKind, set[k.idx] = (byteAt 0 r.payload).testBit k.idx.val) ∧
      (∀ set threshold, readAttention r.payload = some (set, threshold) →
        (threshold = 0 ∨ 256 < threshold → RefusedWith .setAttention r .range s) ∧
        (1 ≤ threshold → threshold ≤ 256 →
          ∃ t, AnsweredWith .setAttention r
              (okReply (kindSetByte set :: (beBytes 2 threshold ++ kindStateBytes t.attn))) t s ∧
            t = { dequeueRequest s with
              journal := { s.journal with threshold := threshold }
              attn := t.attn
              link := { (dequeueRequest s).link with outbound := t.link.outbound } } ∧
            t.attn.subscribed = set ∧ (∀ k, k ≠ .journalLevel → t.attn.stateOf k = s.attn.stateOf k) ∧
            (s.journal.records.length < s.journal.threshold → threshold ≤ s.journal.records.length →
              s.attn.stateOf .journalLevel = .quiet → t.attn.stateOf .journalLevel = .raised) ∧
            (s.journal.threshold ≤ s.journal.records.length ∨ s.journal.records.length < threshold ∨
                s.attn.stateOf .journalLevel ≠ .quiet →
              t.attn.stateOf .journalLevel = s.attn.stateOf .journalLevel) ∧
            (∀ k, t.attn.stateOf k = .raised → t.attn.isSubscribed k = true → s.attn.isSubscribed k = false →
              noticePlaceFree t.link = false) ∧
            let levelRaised := s.journal.records.length < s.journal.threshold ∧
              threshold ≤ s.journal.records.length ∧ s.attn.stateOf .journalLevel = .quiet
            let calls := (levelRaised ∧ t.attn.isSubscribed .journalLevel = true) ∨
              ∃ k, t.attn.stateOf k = .raised ∧ t.attn.isSubscribed k = true ∧ s.attn.isSubscribed k = false
            (calls → noticePlaceFree s.link = true → t.link.outbound = s.link.outbound ++ [.notice]) ∧
            (¬ calls ∨ noticePlaceFree s.link = false → t.link.outbound = s.link.outbound)))) ∧
    (r.kind = 0x16#8 →
      (r.payload.length ≠ 1 ∨ 127 < byteAt 0 r.payload → RefusedWith .ackAttention r .malformed s) ∧
      (r.payload.length = 1 → byteAt 0 r.payload ≤ 127 →
        ∃ set, readKindSet r.payload = some set ∧
          ∀ k : AttnKind, set[k.idx] = (byteAt 0 r.payload).testBit k.idx.val) ∧
      (∀ set, readKindSet r.payload = some set →
        ∃ t, AnsweredWith .ackAttention r
            (okReply (kindStateBytes t.attn ++ [kindSetByte s.attn.subscribed])) t s ∧
          t = { dequeueRequest s with
            attn := t.attn
            link := { (dequeueRequest s).link with outbound := t.link.outbound } } ∧
          t.attn.subscribed = s.attn.subscribed ∧
          (∀ k, set[k.idx] = false → t.attn.stateOf k = s.attn.stateOf k) ∧
          (∀ k, set[k.idx] = true → k ≠ .journalLevel → t.attn.stateOf k = .quiet) ∧
          (set[AttnKind.journalLevel.idx] = true →
            t.attn.stateOf .journalLevel =
              if s.journal.threshold ≤ s.journal.records.length then .raised else .quiet) ∧
          let again := set[AttnKind.journalLevel.idx] = true ∧ s.journal.threshold ≤ s.journal.records.length ∧
            s.attn.isSubscribed .journalLevel = true ∧ noticePlaceFree s.link = true
          (again → t.link.outbound = s.link.outbound ++ [.notice]) ∧
          (¬ again → t.link.outbound = s.link.outbound)))

/-- What every answer to a taken request is: the reply stands at the tail of the outbound queue, and in the reply cache, from
which the oldest of four entries leaves first (R174, R175). A request outside the catalogue has no effect and is answered
UNKNOWN_KIND with the KIND received, in a frame of KIND 80h. -/
def Obligations.RepliesAreQueuedAndCached : Prop :=
  (∀ (c : Instr) (r : Request) (rep : Reply) (t s : State), AnsweredWith c r rep t s →
    let frame := mkFrame (replyKind r.kind) r.seq (rep.status.code :: rep.body)
    ∃ cache,
      exec c s =
        .next { t with link :=
          { t.link with outbound := t.link.outbound ++ [.reply .dispatched frame], cache := cache } } ∧
      (t.link.cache.length < 4 → cache = t.link.cache ++ [⟨r.kind, r.seq, r.crc, frame⟩]) ∧
      (∀ oldest kept, t.link.cache = oldest :: kept → kept.length = 3 →
        cache = kept ++ [⟨r.kind, r.seq, r.crc, frame⟩])) ∧
  (∀ kind : Byte, (1 ≤ kind.toNat → kind.toNat ≤ 22 → (replyKind kind).toNat = kind.toNat + 128) ∧
    (kind.toNat = 0 ∨ 22 < kind.toNat → replyKind kind = 0x80#8)) ∧
  ∀ (s : State) (r : Request), headRequest s = some r → (r.kind.toNat = 0 ∨ 22 < r.kind.toNat) →
    AnsweredWith .unknownKind r ⟨.unknownKind, [r.kind]⟩ (dequeueRequest s) s ∧
    replyFrame r.kind r.seq ⟨.unknownKind, [r.kind]⟩ = mkFrame 0x80#8 r.seq [0x02#8, r.kind]

/-! ## The receiver -/

/-- Losing a frame counts it under its cause, makes the cause the last link error, and raises LINK (R169), which may queue a
NOTICE (R156). -/
def Sys2Proof.Machine.LostFrame (cause : LinkError) (s t : State) : Prop :=
  t.link.totals = s.link.totals.bump cause ∧ t.link.lastError = some cause ∧
    t.attn.stateOf .link = (s.attn.stateOf .link).whenRaised ∧
    t.attn.subscribed = s.attn.subscribed ∧ (∀ k, k ≠ .link → t.attn.stateOf k = s.attn.stateOf k) ∧
    t = { s with
      attn := t.attn
      link :=
        { s.link with
          totals := t.link.totals
          lastError := t.link.lastError
          outbound := queueAfterRaise .link s.attn s.link.outbound } }

/-- The receiver takes bytes: HUNT waits for 9Dh, LENGTH judges LEN, BODY collects, and a frame is abandoned at the gap limit.
While a break lasts no byte is taken. A lost frame counts once more under its cause, up to 255. The model's choices:
BYTE_RECEIVED with a bad LEN does the same as FRAME_LENGTH_ERROR (log entry 19), and the gap limit is accepted at any moment
within a frame (log entry 7). -/
def Obligations.ReceiverTakesBytes : Prop :=
  (∀ totals : LinkTotals,
    let up (n : Nat) : Nat := if n < 255 then n + 1 else n
    totals.bump .length = { totals with length := up totals.length } ∧
    totals.bump .truncated = { totals with truncated := up totals.truncated } ∧
    totals.bump .crc = { totals with crc := up totals.crc } ∧
    totals.bump .overrun = { totals with overrun := up totals.overrun }) ∧
  ∀ (s : State) (b : Byte), s.run = .running →
    (s.link.inBreak = true → exec (.byteReceived b) s = .next s) ∧
    (s.link.inBreak = false →
      (s.link.rx = .hunt → b = 0x9D#8 → exec (.byteReceived b) s = .next (setReceiver .length [] s)) ∧
      (s.link.rx = .hunt → b ≠ 0x9D#8 → exec (.byteReceived b) s = .next s) ∧
      (s.link.rx = .length → 2 ≤ b.toNat → b.toNat ≤ 242 →
        exec (.byteReceived b) s = .next (setReceiver .body [b] s)) ∧
      (s.link.rx = .length → b.toNat < 2 ∨ 242 < b.toNat →
        ∃ t, exec (.frameLengthError b) s = .next t ∧ exec (.byteReceived b) s = .next t ∧
          LostFrame .length (setReceiver .hunt [] s) t) ∧
      (∀ len rest, s.link.rx = .body → s.link.rxBytes = len :: rest → rest.length + 1 < len.toNat + 2 →
        exec (.byteReceived b) s = .next (setReceiver .body (len :: rest ++ [b]) s)) ∧
      (s.link.rx = .length ∨ s.link.rx = .body →
        ∃ t, exec .gapLimitExpiry s = .next t ∧ LostFrame .truncated (setReceiver .hunt [] s) t))

/-- FRAME_RECEIVED: the last CRC byte. Where the CRC differs the frame is lost; the bytes of any frame the manual's layout
gives for a KIND, a SEQ and a payload are accepted as exactly that request. A frame that has passed its CRC check falls under
the first of five cases. -/
def Obligations.FrameReceivedIsCheckedAndAccepted : Prop :=
  (∀ (s : State) (last : Byte), s.run = .running → s.link.inBreak = false → s.link.rx = .body →
    (∀ len rest, s.link.rxBytes ++ [last] = len :: rest → rest.length = len.toNat + 2 →
      crcOf ((len :: rest).take (len.toNat + 1)) ≠
        BitVec.ofNat 16 (beNat (((len :: rest).drop (len.toNat + 1)).take 2)) →
      ∃ t, exec (.frameReceived last) s = .next t ∧ LostFrame .crc (setReceiver .hunt [] s) t) ∧
    (∀ kind seq payload, payload.length ≤ 240 →
      mkFrame kind seq payload = 0x9D#8 :: (s.link.rxBytes ++ [last]) →
      exec (.frameReceived last) s =
        .next
          (acceptFrame
            ⟨kind, seq, crcOf (BitVec.ofNat 8 (payload.length + 2) :: kind :: seq :: payload), payload⟩
            (setReceiver .hunt [] s)))) ∧
  ∀ (s : State) (r : Request),
    let queued := ∃ q ∈ s.link.requests, q.kind = r.kind ∧ q.seq = r.seq ∧ q.crc = r.crc
    let cached := ∃ e ∈ s.link.cache, e.kind = r.kind ∧ e.seq = r.seq ∧ e.crc = r.crc
    let free := placesUsed s.link < 11
    (s.link.partPending = true → acceptFrame r s = s) ∧
    (s.link.partPending = false →
      (queued → acceptFrame r s = s) ∧
      (¬ queued → cached →
        (free → ∃ e ∈ s.link.cache, e.kind = r.kind ∧ e.seq = r.seq ∧ e.crc = r.crc ∧
          acceptFrame r s = queueFrame (.reply .onReceipt e.frame) s) ∧
        (¬ free → LostFrame .overrun s (acceptFrame r s))) ∧
      (¬ queued → ¬ cached → 4 ≤ s.link.requests.length →
        (free → acceptFrame r s =
          queueFrame (.reply .onReceipt (mkFrame (replyKind r.kind) r.seq [0x01#8])) s) ∧
        (¬ free → LostFrame .overrun s (acceptFrame r s))) ∧
      (¬ queued → ¬ cached → s.link.requests.length < 4 →
        (free → acceptFrame r s = { s with link := { s.link with requests := s.link.requests ++ [r] } }) ∧
        (¬ free → LostFrame .overrun s (acceptFrame r s))))

/-! ## Breaks and the transmitter -/

/-- A break resets the link once and leaves the rest of the part; when RXD is high again the receiver is in HUNT. The model's
own: the receiver is in HUNT from the detection of the break on (log entry 17), and BREAK_RELEASE without a break changes
nothing (log entry 5). -/
def Obligations.BreakResetsTheLink : Prop :=
  ∀ (pins : PinSample) (s : State), s.run = .running →
    (s.link.inBreak = false → s.link.partPending = false →
      ∃ t, exec (.linkBreak pins) s = .next t ∧
        t = { s with
          journal := { s.journal with delivered := 0 }
          attn := t.attn
          link :=
            { s.link with
              rx := .hunt
              rxBytes := []
              requests := []
              outbound := [.announce .linkBreak]
              cache := []
              tx := s.link.tx.map fun x => ⟨x.frame, x.partReply, true⟩
              inBreak := true } } ∧
        t.attn.subscribed = s.attn.subscribed ∧
        ∀ k, t.attn.stateOf k = if s.attn.stateOf k = .notified then .raised else s.attn.stateOf k) ∧
    (s.link.inBreak = true →
      exec (.linkBreak pins) s = .next s ∧
      exec .breakRelease s = .next { s with link := { s.link with rx := .hunt, rxBytes := [], inBreak := false } }) ∧
    (s.link.inBreak = false → exec .breakRelease s = .next s)

/-- The frame at the head of the outbound queue begins: a reply as it stands; a NOTICE with its content taken and its kinds
NOTIFIED; an ANNOUNCE with its content taken and the notice place free for a NOTICE. When a frame ends the next one begins at
once if there is one (in the same step: log entry 18), and otherwise the transmitter is idle; a frame that a break stops leaves
it idle. -/
def Obligations.TransmitterSendsTheQueue : Prop :=
  (∀ s : State, s.run = .running → s.link.tx = none → s.link.inBreak = false →
    (∀ origin frame rest, s.link.outbound = .reply origin frame :: rest →
      exec .frameTransmitStart s =
        .next { s with link :=
          { s.link with outbound := rest, tx := some ⟨frame, decide (origin = .partReset), false⟩ } }) ∧
    (∀ rest, s.link.outbound = .notice :: rest →
      ∃ t, exec .frameTransmitStart s = .next t ∧
        t = { s with
          attn := t.attn
          link :=
            { s.link with
              outbound := rest
              unsolicitedSeq := s.link.unsolicitedSeq + 1
              tx := some
                ⟨mkFrame 0x40#8 s.link.unsolicitedSeq
                    ([kindSetByte s.attn.toNotify, kindSetByte s.attn.outstanding, s.ts.timeState.code,
                        s.disc.state.code]
                      ++ beBytes 2 s.ts.era.toNat ++ beBytes 2 s.journal.records.length),
                  false, false⟩ } } ∧
        t.attn.subscribed = s.attn.subscribed ∧
        ∀ k, t.attn.stateOf k =
          if s.attn.isSubscribed k = true ∧ s.attn.stateOf k = .raised then .notified else s.attn.stateOf k) ∧
    (∀ cause rest, s.link.outbound = .announce cause :: rest →
      exec .frameTransmitStart s =
        .next { s with link :=
          { s.link with
            outbound :=
              if s.attn.toNotify.any id && !(rest.any OutFrame.isOwn) then rest ++ [.notice] else rest
            unsolicitedSeq := s.link.unsolicitedSeq + 1
            tx := some
              ⟨mkFrame 0x41#8 s.link.unsolicitedSeq
                  ([cause.code, 0x0F#8, 0x48#8, 0x01#8, s.ts.timeState.code] ++ beBytes 2 s.ts.era.toNat),
                false, false⟩ } })) ∧
  ∀ (pins : PinSample) (s : State) (frame : List Byte), s.run = .running →
    let idled : State := { s with link := { s.link with tx := none } }
    (s.link.tx = some ⟨frame, false, false⟩ →
      (s.link.outbound = [] ∨ s.link.inBreak = true → exec (.frameTransmitEnd pins) s = .next idled) ∧
      (s.link.outbound ≠ [] → s.link.inBreak = false →
        exec (.frameTransmitEnd pins) s = exec .frameTransmitStart idled)) ∧
    (s.link.tx = some ⟨frame, false, true⟩ → exec (.transmitterStops pins) s = .next idled)

/-! ## One tick, and the output pins -/

/-- One tick of the local oscillator: every timer that runs counts it, the pins come to the levels of the lines, and the
timescale advances by one tick while anchored, by none while held, and while free running by two or none at an adjustment of
the combined count N and by one otherwise. The model's choices: that a tick is what passes when nothing waits (log entry 1);
that only the elapsed clock goes on in reset and without a supply (log entry 20); where the adjustments fall in a second
entered in its middle (log entry 8); that an inserted tick at tick count 124,999,999 brings the time to tick 1 (log
entry 28); that the pins come to the levels of the lines at the tick (log entry 24); and that a tick ends the one sample of
each capture pin (log entry 30). -/
def Obligations.OneTickMovesTimeAndTimers : Prop :=
  (∀ s : State, s.run ≠ .running → tick s = { s with elapsed := s.elapsed + 1 }) ∧
  ∀ s : State, s.run = .running → s.ts.now.Valid →
    let t := tick s
    let now := s.ts.now
    let free := s.ts.freeRun
    let n : Int := free.slew - free.freq
    let anchored := s.disc.state = .locked ∧ s.ts.switchPending = false
    let next := free.base + (free.done + 1) * (125000000 - free.base) / (n.natAbs + 1)
    t = { s with
      elapsed := s.elapsed + 1
      monA := t.monA
      monB := t.monB
      disc := { s.disc with holdoverTimer := s.disc.holdoverTimer.map fun count => count + 1 }
      lines := t.lines
      caps := t.caps
      shown := t.shown
      sampled := t.sampled
      sched := t.sched
      ts := t.ts } ∧
    (∀ p, t.mon p =
      { s.mon p with
        window := (s.mon p).window.map fun left => left - 1
        silence := (s.mon p).silence.map fun left => left - 1
        holdOff := (s.mon p).holdOff.map fun left => left - 1 }) ∧
    (∀ i : Fin 8,
      t.lines[i] = { s.lines[i] with trailing := s.lines[i].trailing.map fun left => left - 1 } ∧
        t.shown[i] = s.lines[i].level) ∧
    (∀ i : Fin 4,
      t.caps[i] = { s.caps[i] with timer := s.caps[i].timer.map fun left => left - 1 } ∧ t.sampled[i] = false) ∧
    (∀ left, s.ts.hold = some left → t.ts = { s.ts with hold := some (left - 1) } ∧ t.sched = s.sched) ∧
    (s.ts.hold = none → ∀ ticks done : Nat,
      (anchored ∨ n.natAbs ≤ free.done ∨ now.tick < next → ticks = 1 ∧ done = free.done) →
      (¬ anchored → free.done < n.natAbs → next ≤ now.tick →
        done = free.done + 1 ∧ (0 < n → ticks = 2) ∧ (n < 0 → ticks = 0)) →
      (now.tick + ticks < 125000000 →
        t.ts = { s.ts with now := ⟨now.sec, now.tick + ticks⟩, freeRun := { free with done := done } } ∧
          t.sched = s.sched) ∧
      (125000000 ≤ now.tick + ticks →
        t.ts =
          { s.ts with
            now := ⟨(now.sec + 1) % 2 ^ 37, now.tick + ticks - 125000000⟩
            freeRun := { free with done := done }
            boundaryDue := true } ∧
        (now.sec < 137438953471 → t.sched = s.sched) ∧
        (now.sec = 137438953471 →
          t.sched = { s.sched with armed := s.sched.armed.map fun a => { a with lap := a.lap - 1 } })))

/-- The pins of the output lines: nothing while the driver is off, and otherwise the level the line holds once all changes
of the instant have been made. Until then it is the level at the end of the last instant, which no command moves and a tick
renews (R112, log entry 24). -/
def Obligations.OutputPinsPresentTheSettledLevel : Prop :=
  (∀ (s : State) (i : Fin 8),
    (s.run ≠ .running ∨ s.lines[i].mode = .off → outPin s i = none) ∧
    (s.run = .running → s.lines[i].mode ≠ .off →
      (s.pending = [] → due s = [] → outPin s i = some s.lines[i].level) ∧
      (s.pending ≠ [] ∨ due s ≠ [] → outPin s i = some s.shown[i]))) ∧
  (∀ s : State, s.run = .running → ∀ i : Fin 8, (tick s).shown[i] = s.lines[i].level) ∧
  ∀ (c : Instr) (s t : State), exec c s = .next t →
    t.shown = s.shown ∨ ∀ i : Fin 8, t.shown[i] = .low ∧ t.lines[i].mode = .off

/-! ## The timescale's events -/

/-- SECOND_BOUNDARY: while anchored, what is left of the amount is added to the phase offset, folded; a staged load is applied,
as a discontinuity of cause LOAD from UNSET or to another second; the slew amount is taken; and a free-running second gets its
combined count, the amount less the whole ticks of frequency correction, with the fraction carried on. A load of a later second
is a forward jump, handed to the schedule after the ERA record. That the tick count is kept where it is not 0 any more is the
model's choice (log entries 28 and 31; after a correction R99 has it so), and how the fraction is kept is read from the manual
by inference (log entry 9). -/
def Obligations.SecondBoundaryIsCarriedOut : Prop :=
  ∀ s : State, s.run = .running → s.ts.boundaryDue = true →
    let rate : Int := s.disc.config.slewRate
    let amount := max (-rate) (min s.ts.remainingSlew rate)
    ∃ t, exec .secondBoundary s = .next t ∧ t.ts.boundaryDue = false ∧ t.ts.stagedLoad = none ∧
      t.ts.slewAmount = amount ∧ t.ts.remainingSlew = s.ts.remainingSlew - amount ∧
      t.ts.now.tick = s.ts.now.tick ∧ t.disc = s.disc ∧ t.monA = s.monA ∧ t.monB = s.monB ∧ t.caps = s.caps ∧
      t.sched.admissions = s.sched.admissions ∧ t.ts.hold = s.ts.hold ∧
      t.ts.switchPending = s.ts.switchPending ∧
      (s.disc.state = .locked → s.ts.switchPending = false →
        -62499999 ≤ t.ts.phaseOffset ∧ t.ts.phaseOffset ≤ 62500000 ∧
        (s.ts.phaseOffset + s.ts.slewLeft - t.ts.phaseOffset) % 125000000 = 0 ∧
        t.ts.slewLeft = amount ∧ t.ts.slewLost = 0 ∧ t.ts.freeRun = s.ts.freeRun ∧
        t.ts.freqRemainder = s.ts.freqRemainder) ∧
      (s.disc.state ≠ .locked ∨ s.ts.switchPending = true →
        let correction : Int := s.disc.freqEstimate * 125000000 + s.ts.freqRemainder
        t.ts.phaseOffset = s.ts.phaseOffset ∧ t.ts.slewLeft = s.ts.slewLeft ∧ t.ts.slewLost = s.ts.slewLost ∧
        t.ts.freeRun = ⟨amount, correction.tdiv 1000000000, 0, 0⟩ ∧
        t.ts.freqRemainder = correction.tmod 1000000000) ∧
      (s.ts.stagedLoad = none →
        t = { s with ts := t.ts } ∧ t.ts.now = s.ts.now ∧ t.ts.timeState = s.ts.timeState ∧ t.ts.era = s.ts.era) ∧
      (∀ v, s.ts.stagedLoad = some v → t.ts.timeState = .set ∧ t.ts.now.sec = v ∧
        (s.ts.timeState = .set → v = s.ts.now.sec → t = { s with ts := t.ts } ∧ t.ts.era = s.ts.era) ∧
        (s.ts.timeState = .unset ∨ v ≠ s.ts.now.sec →
          t.ts.era = s.ts.era + 1 ∧ t.attn.stateOf .era = (s.attn.stateOf .era).whenRaised ∧
          (s.ts.timeState = .set → s.ts.now.sec < v →
            ∃ mid, t = { takeJump true s.ts.now ⟨v, s.ts.now.tick⟩ mid with ts := t.ts } ∧ mid.sched = s.sched ∧
              mid.lines = s.lines ∧ mid.ts.era = s.ts.era + 1 ∧ mid.ts.now = ⟨v, s.ts.now.tick⟩ ∧
              mid.journal =
                journalAfter (s.ts.era + 1) ⟨v, s.ts.now.tick⟩ (.era (s.ts.era + 1) .load) s.journal) ∧
          (s.ts.timeState = .unset ∨ v < s.ts.now.sec →
            t.sched.waiting = s.sched.waiting ∧ t.lines = s.lines ∧
            t.sched.armed.map (fun a => (a.entry, a.due)) = s.sched.armed.map (fun a => (a.entry, a.due)) ∧
            t.journal =
              journalAfter (s.ts.era + 1) ⟨v, s.ts.now.tick⟩ (.era (s.ts.era + 1) .load) s.journal)))

/-- ANCHOR_HOLD_END, TRAILING_EDGE_EXPIRY and DEAD_TIME_EXPIRY: each ends its own timer and nothing else. That an expiry of
a timer that has not run out changes nothing is the model's choice (log entry 5). -/
def Obligations.HoldPulseAndDeadTimeEnd : Prop :=
  ∀ s : State, s.run = .running →
    (s.ts.hold = some 0 → exec .anchorHoldEnd s = .next (setTs { s.ts with hold := none } s)) ∧
    (∀ i : Fin 8, s.lines[i].trailing = some 0 →
      exec (.trailingEdgeExpiry i) s =
        .next (setLine i ⟨s.lines[i].mode, s.lines[i].idle, s.lines[i].idle, none⟩ s)) ∧
    (∀ i : Fin 8, s.lines[i].trailing ≠ some 0 → exec (.trailingEdgeExpiry i) s = .next s) ∧
    (∀ i : Fin 4, s.caps[i].timer = some 0 →
      exec (.deadTimeExpiry i) s = .next (setCap i { s.caps[i] with timer := none } s)) ∧
    (∀ i : Fin 4, s.caps[i].timer ≠ some 0 → exec (.deadTimeExpiry i) s = .next s)

/-- An anchoring correction: forward, the time goes to the anchored value and the entries passed over fire, so that none
is reached any more; forward across the tick wrap, the second boundary is carried out after them, with its staged load and
its slew amount, and the load keeps the corrected tick count; backward within the second, the time is set back; backward over
the second boundary, it is held at tick 0. At the instant of a tick wrap, ahead of the boundary that is due, the correction
leaves the boundary due: the model's choice (log entry 31). An entry that this instant has reached and that has not yet fired
fires at the corrected time after a forward correction, and after a backward one waits for its due time again: the model's
choice (log entry 33). -/
def Obligations.AnchoringCorrectionMovesTheTime : Prop :=
  ∀ (s : State) (distance : Int), s.ts.now.Valid → distance ≤ 62500000 →
    let tick : Int := s.ts.now.tick
    (0 < distance → tick + distance < 125000000 →
      (correct distance s).ts =
        { s.ts with hold := none, now := ⟨s.ts.now.sec, (tick + distance).toNat⟩ }) ∧
    (distance ≤ 0 → 0 ≤ tick + distance →
      correct distance s =
        setTs { s.ts with hold := none, now := ⟨s.ts.now.sec, (tick + distance).toNat⟩ } s) ∧
    (tick + distance < 0 →
      correct distance s =
        setTs { s.ts with hold := some (-(tick + distance)).toNat, now := ⟨s.ts.now.sec, 0⟩ } s) ∧
    (0 < distance → 125000000 ≤ tick + distance → s.ts.stagedLoad = none →
      (correct distance s).ts.now = ⟨(s.ts.now.sec + 1) % 2 ^ 37, (tick + distance - 125000000).toNat⟩ ∧
      (correct distance s).ts.boundaryDue = false ∧ (correct distance s).ts.era = s.ts.era) ∧
    (0 < distance → tick + distance < 125000000 →
      correct distance s =
        fireReached (setTs { s.ts with hold := none, now := ⟨s.ts.now.sec, (tick + distance).toNat⟩ } s)) ∧
    (0 < distance → 125000000 ≤ tick + distance →
      let natural : TimeValue := ⟨(s.ts.now.sec + 1) % 2 ^ 37, (tick + distance - 125000000).toNat⟩
      let t := correct distance s
      ∃ moved, moved = fireReached (advanceBy distance.toNat (setTs { s.ts with hold := none } s)) ∧
        moved.ts = { s.ts with hold := none, now := natural, boundaryDue := true } ∧
        (s.run = .running → exec .secondBoundary moved = .next t) ∧
        ∀ v, s.ts.stagedLoad = some v →
          t.ts.now = ⟨v, natural.tick⟩ ∧ t.ts.timeState = .set ∧ t.ts.stagedLoad = none ∧
          t.ts.boundaryDue = false ∧
          (s.ts.timeState = .set → v = natural.sec → t.ts.era = s.ts.era) ∧
          (s.ts.timeState = .unset ∨ v ≠ natural.sec →
            t.ts.era = s.ts.era + 1 ∧ t.attn.stateOf .era = (s.attn.stateOf .era).whenRaised)) ∧
    (∀ moved : State,
      (∀ a ∈ moved.sched.armed, (∀ q, a.entry.desc.rep = some q → 1 ≤ q.period) ∧
        ∀ w, a.entry.desc.action = .pulse w → 1 ≤ w) →
      (fireReached moved).ts = moved.ts ∧
        ∀ a ∈ (fireReached moved).sched.armed, a.reached moved.ts.now = false)

/-! ### Accepted steps -/

/-- A step at this instant is accepted: the path watches, and the step does not come too soon (R29, R30). -/
def Sys2Proof.Machine.ComesOnTime (m : Monitor) (at_ : Nat) : Prop :=
  m.state.watches = true ∧
    ∃ ref, m.refInstant = some ref ∧ ref + (m.config.period - m.config.tolerance) ≤ at_

/-- The monitor after points 1 to 3 of R30. -/
def Sys2Proof.Machine.acceptedMonitor (m : Monitor) (at_ : Nat) : Monitor :=
  { m with
    refInstant := some at_
    window := some (m.config.period + m.config.tolerance)
    silence := if m.state = .qualifying then some 250000000 else m.silence }

/-- The monitor after a marked step's new second has been opened (R30, point 5). -/
def Sys2Proof.Machine.openedSecond (m : Monitor) (at_ : Nat) : Monitor :=
  { m with
    stepsSinceMark := 0
    previousMark := some at_
    lastAcceptedMark := some at_
    firstMarkPending := false
    faultSinceMark := false }

/-- Neither RESIDUE nor RATE is charged at a marked step at this instant (R33). -/
def Sys2Proof.Machine.FaultFreeMark (m : Monitor) (at_ : Nat) : Prop :=
  m.firstMarkPending = true ∨
    (m.stepsSinceMark + 1 = m.config.stepsPerSecond ∧
      ∀ prev, m.previousMark = some prev → 124987500 ≤ at_ - prev ∧ at_ - prev ≤ 125012500)

/-- The SKEW check of a marked step now passes or is not made (R34). -/
def Sys2Proof.Machine.SkewPasses (p : Path) (s : State) : Prop :=
  ∀ q mark, s.disc.selected = some q → q ≠ p → (s.mon q).lastAcceptedMark = some mark →
    ∃ distance : Int, -62499999 ≤ distance ∧ distance ≤ 62500000 ∧
      ((s.elapsed : Int) - mark - distance) % 125000000 = 0 ∧ distance.natAbs ≤ (s.mon p).config.skewLimit

/-- The marked step that opens a new second for path `p`, before anything follows from it (R30). -/
def Sys2Proof.Machine.openSecond (p : Path) (s : State) : State :=
  setMon p (openedSecond (acceptedMonitor (s.mon p) s.elapsed) s.elapsed) s

/-- The folded tick count of R18. -/
def Sys2Proof.Machine.foldedTick (tick : Nat) : Int := if tick ≤ 62500000 then (tick : Int) else (tick : Int) - 125000000

/-- An acquisition is completed at the first fault-free marked step of the selected path, by a slew or by a jump; either way the
controller becomes LOCKED at that step. A jump declares one discontinuity, of cause LOAD_ACQUIRE if a load was staged and
ACQUIRE if not; its ERA record stands ahead of the DISCIPLINE record, and both ahead of the records of the jump, which the
schedule is handed after them. That the monitor's own handling comes before the timescale's is log entry 10. -/
def Obligations.AcquisitionSlewsOrJumps : Prop :=
  (∀ s : State, s.ts.now.Valid → s.disc.state = .acquiring →
    let offset := foldedTick s.ts.now.tick
    let slews := s.disc.config.acquireMode = .alwaysSlew ∨ offset.natAbs ≤ s.disc.config.acquireSlewLimit
    let t := completeAcquisition s
    let locks : RecordBody := .discipline .acquiring .locked s.disc.selected
    t.disc = { s.disc with state := .locked, holdoverTimer := none, returnState := .free } ∧
    t.attn.stateOf .discipline = (s.attn.stateOf .discipline).whenRaised ∧
    (slews → t.ts.now = s.ts.now ∧ t.ts.phaseOffset = offset ∧ t.ts.remainingSlew = -offset ∧
      t.ts.slewAmount = 0 ∧ t.ts.era = s.ts.era ∧ t.ts.stagedLoad = s.ts.stagedLoad ∧ t.sched = s.sched ∧
      t.lines = s.lines ∧ t.journal = journalAfter s.ts.era s.ts.now locks s.journal) ∧
    (¬ slews → t.ts.now.tick = 0 ∧ t.ts.phaseOffset = 0 ∧ t.ts.remainingSlew = 0 ∧ t.ts.slewAmount = 0 ∧
      t.ts.era = s.ts.era + 1 ∧ t.ts.stagedLoad = none ∧ t.attn.stateOf .era = (s.attn.stateOf .era).whenRaised ∧
      let alone := if 0 < offset then s.ts.now.sec else (s.ts.now.sec + 1) % 2 ^ 37
      let jumps (forward : Bool) (cause : EraCause) : Prop :=
        ∃ mid, t = takeJump forward s.ts.now t.ts.now mid ∧ mid.ts = t.ts ∧ mid.sched = s.sched ∧
          mid.lines = s.lines ∧
          mid.journal =
            journalAfter (s.ts.era + 1) t.ts.now locks
              (journalAfter (s.ts.era + 1) t.ts.now (.era (s.ts.era + 1) cause) s.journal)
      (s.ts.stagedLoad = none → t.ts.timeState = s.ts.timeState ∧ t.ts.now.sec = alone ∧
        jumps (decide (offset < 0)) .acquire) ∧
      (∀ v, s.ts.stagedLoad = some v → t.ts.timeState = .set ∧ t.ts.now.sec = v ∧
        (s.ts.timeState = .unset ∨ v < alone → jumps false .loadAcquire) ∧
        (s.ts.timeState = .set → alone < v → jumps true .loadAcquire) ∧
        (s.ts.timeState = .set → v = alone → jumps (decide (offset < 0)) .loadAcquire)))) ∧
  (∀ (s : State) (p : Path), s.disc.state = .acquiring →
    handStep p true s = completeAcquisition s ∧ handStep p false s = s) ∧
  ∀ (s : State) (p : Path), s.run = .running → s.disc.state = .acquiring → s.disc.selected = some p →
    (s.mon p).state = .good → ComesOnTime (s.mon p) s.elapsed → FaultFreeMark (s.mon p) s.elapsed →
      exec (.referenceStep p .high) s = .next (completeAcquisition (openSecond p s))

/-- What a fault-free step of the selected path does to an anchored timescale: its share of the slew amount moves into the
phase offset, rounded toward zero, with the parts lost to rounding moved as whole ticks (R13), and the time is corrected to the
nearest value whose tick count is the step's nominal position plus the phase offset (R16). -/
def Sys2Proof.Machine.AnchoredBy (p : Path) (s t : State) : Prop :=
  let m := s.mon p
  let steps : Int := m.config.stepsPerSecond
  let lost := s.ts.slewLost + s.ts.slewAmount.tmod steps
  let wanted := s.ts.slewAmount.tdiv steps + lost.tdiv steps
  let left := s.ts.slewLeft
  let moved := if 0 ≤ left then max 0 (min wanted left) else min 0 (max wanted left)
  ∃ phase distance : Int,
    -62499999 ≤ phase ∧ phase ≤ 62500000 ∧ (s.ts.phaseOffset + moved - phase) % 125000000 = 0 ∧
    -62499999 ≤ distance ∧ distance ≤ 62500000 ∧
    ((m.stepsSinceMark * m.config.period : Nat) + phase - s.ts.now.tick - distance) % 125000000 = 0 ∧
    t = correct distance
      (setTs { s.ts with phaseOffset := phase, slewLeft := left - moved, slewLost := lost.tmod steps } s)

/-- What the first fault-free marked step after a switch of paths does (R21): the folded offset becomes the phase offset, the
difference is taken from the remaining slew within 62,500,000, and what the free-running second had not applied of its slew goes
on at the phase offset (R14; log entry 4 where slew and frequency correction were combined). -/
def Sys2Proof.Machine.MeasuredSwitch (s t : State) : Prop :=
  let offset := foldedTick s.ts.now.tick
  ∃ difference left rest : Int,
    -62499999 ≤ difference ∧ difference ≤ 62500000 ∧
    (offset - s.ts.phaseOffset - difference) % 125000000 = 0 ∧
    t = { s with
      choices := t.choices
      ts :=
        { s.ts with
          phaseOffset := offset
          remainingSlew := max (-62500000) (min (s.ts.remainingSlew - difference) 62500000)
          slewLeft := left
          slewLost := 0
          freeRun := ⟨0, 0, 0, 0⟩
          switchPending := false } } ∧
    SplitOf s.ts left rest

/-- The steps of the selected path in LOCKED: a step at which nothing is charged anchors the timescale to it, and between a
switch and its measurement only a marked one counts, which measures the switch. In FREE and HOLDOVER no step reaches the
timescale. The order inside a step (log entry 10) and the value taken when two lie equally near (log entry 11) are read from the
manual by inference. -/
def Obligations.StepsOfTheSelectedPathSteerTheTimescale : Prop :=
  (∀ (s : State) (p : Path) (marked : Bool),
    (s.disc.state = .free ∨ s.disc.state = .holdover → handStep p marked s = s) ∧
    (s.disc.state = .locked → s.ts.switchPending = false → AnchoredBy p s (handStep p marked s)) ∧
    (s.disc.state = .locked → s.ts.switchPending = true →
      handStep p false s = s ∧ (s.ts.now.Valid → MeasuredSwitch s (handStep p true s)))) ∧
  ∀ (s : State) (p : Path), s.run = .running → s.disc.state = .locked → s.disc.selected = some p →
    let m := s.mon p
    ComesOnTime m s.elapsed →
    (m.stepsSinceMark < m.config.stepsPerSecond →
      let counted := setMon p { acceptedMonitor m s.elapsed with stepsSinceMark := m.stepsSinceMark + 1 } s
      (s.ts.switchPending = false → ∃ t, exec (.referenceStep p .low) s = .next t ∧ AnchoredBy p counted t) ∧
      (s.ts.switchPending = true → exec (.referenceStep p .low) s = .next counted)) ∧
    (m.state = .good → FaultFreeMark m s.elapsed → s.ts.now.Valid →
      ∀ learned : State,
        (m.firstMarkPending = true ∨ m.previousMark = none ∨ m.faultSinceMark = true → learned = openSecond p s) →
        (∀ prev, m.firstMarkPending = false → m.previousMark = some prev → m.faultSinceMark = false →
          let measurement : Int := (((s.elapsed - prev : Nat) : Int) - 125000000) * 8
          learned =
            { openSecond p s with
              disc :=
                { s.disc with
                  freqEstimate := s.disc.freqEstimate + (measurement - s.disc.freqEstimate).tdiv 8 } }) →
        ∃ t, exec (.referenceStep p .high) s = .next t ∧
          (s.ts.switchPending = false → AnchoredBy p learned t) ∧
          (s.ts.switchPending = true → MeasuredSwitch learned t))

/-! ## Firing and jumps -/

/-- What a firing does to its line, its count and the journal (R94, R95): explicit for every action. -/
def Sys2Proof.Machine.firedState (late : Bool) (e : Entry) (s : State) : State :=
  let l := s.lines[e.desc.line]
  let cut := l.trailing.isSome && (match e.desc.action with | .pulse _ => false | _ => true)
  let moved : OutLine :=
    match e.desc.action with
    | .rise => ⟨l.mode, l.idle, .high, none⟩
    | .fall => ⟨l.mode, l.idle, .low, none⟩
    | .toggle => ⟨l.mode, l.idle, flipLevel l.level, none⟩
    | .pulse w => ⟨l.mode, l.idle, flipLevel l.idle, some w⟩
  let count := if e.occurrences < 65535 then e.occurrences + 1 else e.occurrences
  let t := setLine e.desc.line moved s
  if e.desc.reportFirings then
    appendRecord (.fired e.desc.handle e.desc.line e.desc.action late cut count) t
  else t

/-- The entry after a firing, its occurrences counted (R94). -/
def Sys2Proof.Machine.firedEntry (e : Entry) : Entry :=
  { e with occurrences := if e.occurrences < 65535 then e.occurrences + 1 else e.occurrences }

/-- Where an entry goes when its burst has ended (R97, R98, R104). -/
def Sys2Proof.Machine.burstEnded (outcome : RemovalOutcome) (e : Entry) (s : State) : State :=
  match e.desc.start with
  | .triggered i _ .every => joinWaiting i { e with remaining := e.desc.burstCount } s
  | _ =>
    if e.desc.reportRemoval then appendRecord (.removed e.desc.handle outcome e.occurrences) s else s

/-- An armed entry placed again with its due time moved on (R96). -/
def Sys2Proof.Machine.movedOn (ticks left : Nat) (a : ArmedEntry) (e : Entry) : ArmedEntry :=
  ⟨{ e with remaining := left }, TimeValue.ofLin (a.due.lin + ticks),
    a.lap + ((a.due.lin + ticks) / wrapLin : Nat)⟩

/-- FIRING: a reached entry before which no reached entry of its line stands in the armed list fires, and moves on one period,
back to its waiting list, or out of the schedule; every such entry may be named. That FIRING names it by its handle is the
model's choice (log entry 25). -/
def Obligations.FiringActsAndMovesOn : Prop :=
  (∀ (s : State) (ahead behind : List ArmedEntry) (a : ArmedEntry), s.sched.armed = ahead ++ a :: behind →
    a.due.lin + a.lap * wrapLin ≤ s.ts.now.lin → (∀ b ∈ ahead, b.handle ≠ a.handle) →
    (∀ b ∈ ahead, b.reached s.ts.now = true → b.entry.desc.line ≠ a.entry.desc.line) →
    firableEntry a.handle s = some a) ∧
  ∀ (s : State) (h : Nat) (a : ArmedEntry), s.run = .running → firableEntry h s = some a →
    let out := setArmed (s.sched.armed.filter fun x => x.handle != h) s
    let e := firedEntry a.entry
    let t := firedState false a.entry out
    a.handle = h ∧ a.due.lin + a.lap * wrapLin ≤ s.ts.now.lin ∧
    (∃ ahead behind, s.sched.armed = ahead ++ a :: behind ∧
      ∀ b ∈ ahead, b.reached s.ts.now = true → b.entry.desc.line ≠ a.entry.desc.line) ∧
    (a.entry.desc.rep = none → exec (.firing h) s = .next (burstEnded .complete e t)) ∧
    (∀ q, a.entry.desc.rep = some q →
      (q.count = 0 → exec (.firing h) s = .next (arm (movedOn q.period e.remaining a e) t)) ∧
      (q.count ≠ 0 → 1 < a.entry.remaining →
        exec (.firing h) s = .next (arm (movedOn q.period (a.entry.remaining - 1) a e) t)) ∧
      (q.count ≠ 0 → a.entry.remaining ≤ 1 → exec (.firing h) s = .next (burstEnded .complete e t)))

/-- An overtaken entry is handled under its late policy: one late firing, or none, stands for all its overtaken occurrences,
and SCHEDULE is raised. A backward jump leaves every entry as it was; only its standing to the wrap is judged again, against
the new time (log entries 13 and 27). -/
def Obligations.OvertakenEntriesMoveOn : Prop :=
  (∀ (s : State) (old new : TimeValue),
    takeJump false old new s =
      setArmed (s.sched.armed.map fun a => { a with lap := if a.due.lin < new.lin then 1 else 0 }) s) ∧
  ∀ (s : State) (a : ArmedEntry) (limit : Int),
    let out := setArmed (s.sched.armed.filter fun x => x.handle != a.handle) s
    let fires := a.entry.desc.latePolicy = .fire
    let e := if fires then firedEntry a.entry else a.entry
    let t := raise .schedule (if fires then firedState true a.entry out else out)
    let outcome : RemovalOutcome := if fires then .complete else .skipped
    (a.entry.desc.rep = none → overtakeOne limit a s = burstEnded outcome e t) ∧
    (∀ q, a.entry.desc.rep = some q →
      let k := ((limit - a.lin) / q.period).toNat + 1
      (q.count = 0 → overtakeOne limit a s = arm (movedOn (k * q.period) e.remaining a e) t) ∧
      (q.count ≠ 0 → k < a.entry.remaining →
        overtakeOne limit a s = arm (movedOn (k * q.period) (a.entry.remaining - k) a e) t) ∧
      (q.count ≠ 0 → a.entry.remaining ≤ k → overtakeOne limit a s = burstEnded outcome e t))

/-- A forward jump takes the armed entries with a due time up to the new time, reading times in the order in which the time
comes to them from the old time, and handles them one at a time in armed-list order, each once. Every other entry keeps its
place and its due time. Afterwards each armed entry awaits the wrap exactly if its due time lies before the new time. An entry
awaits the wrap when its `lap` is 1, and one that has been reached and has not fired is among the overtaken (log entry 13). -/
def Obligations.ForwardJumpOvertakesInOrder : Prop :=
  ∀ (s : State) (old new : TimeValue), old.Valid → new.Valid →
    let limit : Int := if new.lin < old.lin then (new.lin : Int) + wrapLin else new.lin
    let passed := s.sched.armed.filter fun a => decide ((a.due.lin : Int) + a.lap * wrapLin ≤ limit)
    let handled := passed.foldl (fun t a => overtakeOne limit a t) s
    let judged (a : ArmedEntry) : ArmedEntry := { a with lap := if a.due.lin < new.lin then 1 else 0 }
    takeJump true old new s = setArmed (handled.sched.armed.map judged) handled ∧
    (passed = [] → handled = s) ∧
    (∀ a ∈ s.sched.armed, a.due.Valid →
      (a.lap = 0 → old.lin ≤ new.lin → (a ∈ passed ↔ a.due.lin ≤ new.lin)) ∧
      (a.lap = 0 → new.lin < old.lin → a ∈ passed) ∧
      (a.lap = 1 → old.lin ≤ new.lin → a ∉ passed) ∧
      (a.lap = 1 → new.lin < old.lin → (a ∈ passed ↔ a.due.lin ≤ new.lin))) ∧
    (∀ a ∈ s.sched.armed, (∀ b ∈ passed, b.handle ≠ a.handle) → judged a ∈ (takeJump true old new s).sched.armed)

/-! ## The monitors' events -/

/-- REFERENCE_STEP: ignored in DISABLED and FAILED; the first step in ABSENT starts qualification; a step that comes too soon
is charged EARLY_STEP; an accepted unmarked step is counted. A step of the selected path at which nothing is charged goes to
the timescale, after the monitor's own handling (log entry 10). -/
def Obligations.ReferenceStepIsJudged : Prop :=
  ∀ (s : State) (p : Path) (mark : Level), s.run = .running →
    let m := s.mon p
    let c := m.config
    (m.state = .disabled ∨ m.state = .failed → exec (.referenceStep p mark) s = .next s) ∧
    (m.state = .absent →
      exec (.referenceStep p mark) s =
        .next
          (handOnPath p .absent none
            (setMon p
              { m with
                state := .qualifying
                refInstant := some s.elapsed
                window := some (c.period + c.tolerance)
                silence := some 250000000
                cleanCount := 0
                suspectCount := 0
                faultSinceMark := false
                stepsSinceMark := if mark = .high then 0 else 1
                previousMark := if mark = .high then some s.elapsed else none
                lastAcceptedMark := if mark = .high then some s.elapsed else none
                firstMarkPending := decide (mark = .low) } s))) ∧
    (m.state.watches = true → ∀ ref, m.refInstant = some ref →
      (s.elapsed < ref + (c.period - c.tolerance) →
        exec (.referenceStep p mark) s = .next (charge p .earlyStep s)) ∧
      (ref + (c.period - c.tolerance) ≤ s.elapsed → mark = .low → m.stepsSinceMark < c.stepsPerSecond →
        let counted :=
          setMon p
            { m with
              refInstant := some s.elapsed
              window := some (c.period + c.tolerance)
              silence := if m.state = .qualifying then some 250000000 else m.silence
              stepsSinceMark := m.stepsSinceMark + 1 } s
        (s.disc.selected ≠ some p → exec (.referenceStep p mark) s = .next counted) ∧
        (s.disc.selected = some p → exec (.referenceStep p mark) s = .next (handStep p false counted))))

/-- A marked step at which nothing is charged opens a new second. It is clean if no fault was charged since the mark before it
and the RATE check was made; a clean second is counted for the path and for the frequency estimate, and moves a QUALIFYING or
SUSPECT path to GOOD when enough have come. One that comes after the wrong number of steps is charged RESIDUE in QUALIFYING. The
model's reading: the monitor and the selection act first and the timescale after them, so a step that makes or loses the
selection of its path is not handed on (log entry 10). The model's choice: a clean second that itself makes its path the selected
one does not update the estimate (log entry 32). -/
def Obligations.MarkedStepEndsASecond : Prop :=
  (∀ (s : State) (p : Path), s.run = .running →
    let m := s.mon p
    ComesOnTime m s.elapsed → FaultFreeMark m s.elapsed → SkewPasses p s →
    let opened := openSecond p s
    (m.firstMarkPending = true ∨ m.previousMark = none ∨ m.faultSinceMark = true →
      (s.disc.selected = some p → exec (.referenceStep p .high) s = .next (handStep p true opened)) ∧
      (s.disc.selected ≠ some p → exec (.referenceStep p .high) s = .next opened)) ∧
    (∀ prev, m.firstMarkPending = false → m.faultSinceMark = false → m.previousMark = some prev →
      let cleaned := cleanSecond p (s.elapsed - prev) opened
      (s.disc.selected = some p → cleaned.disc.selected = some p →
        exec (.referenceStep p .high) s = .next (handStep p true cleaned)) ∧
      (s.disc.selected ≠ some p ∨ cleaned.disc.selected ≠ some p →
        exec (.referenceStep p .high) s = .next cleaned))) ∧
  (∀ (s : State) (p : Path) (ticks : Nat),
    let m := s.mon p
    let c := m.config
    let good : Monitor := { m with state := .good, cleanCount := 0, suspectCount := 0, silence := none }
    ∃ t : State, t = { s with disc := { s.disc with freqEstimate := t.disc.freqEstimate } } ∧
      (s.disc.selected ≠ some p ∨ s.disc.state ≠ .locked → t = s) ∧
      (∀ marks, (m.state = .qualifying ∧ marks = c.qualifyMarks) ∨ (m.state = .suspect ∧ marks = c.recoverMarks) →
        (m.cleanCount + 1 < marks →
          cleanSecond p ticks s = setMon p { m with cleanCount := m.cleanCount + 1 } t) ∧
        (marks ≤ m.cleanCount + 1 →
          cleanSecond p ticks s = handOnPath p m.state none (setMon p good t))) ∧
      (m.state = .good → cleanSecond p ticks s = t)) ∧
  ∀ (s : State) (p : Path), s.run = .running → ComesOnTime (s.mon p) s.elapsed →
    let m := s.mon p
    m.firstMarkPending = false → m.stepsSinceMark + 1 ≠ m.config.stepsPerSecond → m.state = .qualifying →
    s.disc.selected = none →
      exec (.referenceStep p .high) s =
        .next
          (setMon p
            { openedSecond (acceptedMonitor m s.elapsed) s.elapsed with
              totals := m.totals.bump .residue
              lastFault := some ⟨.residue, s.ts.now⟩
              cleanCount := 0 } s)

/-- The faults charged at an accepted step. MISSING_MARK at an unmarked step too many; RESIDUE or RATE at a marked step, and
SKEW after them while the other path is selected, also at an exempt or clean step. A charge that makes the path FAILED ends the
handling of the step; otherwise the count starts again, and nothing is handed to the timescale. That SKEW is judged against the
path selected once the charge before it has been handled is the model's reading (log entry 26). -/
def Obligations.FaultsAreChargedAtTheStep : Prop :=
  ∀ (s : State) (p : Path), s.run = .running →
    let m := s.mon p
    let accepted := acceptedMonitor m s.elapsed
    let opens (t : State) : State := setMon p (openedSecond (t.mon p) s.elapsed) t
    ComesOnTime m s.elapsed →
    (m.config.stepsPerSecond ≤ m.stepsSinceMark →
      let charged := charge p .missingMark (setMon p { accepted with stepsSinceMark := m.stepsSinceMark + 1 } s)
      ((charged.mon p).state = .failed → exec (.referenceStep p .low) s = .next charged) ∧
      ((charged.mon p).state ≠ .failed →
        exec (.referenceStep p .low) s =
          .next (setMon p { charged.mon p with stepsSinceMark := 1, previousMark := none } charged))) ∧
    (∀ k,
      (m.firstMarkPending = false ∧ m.stepsSinceMark + 1 ≠ m.config.stepsPerSecond ∧ k = FaultKind.residue) ∨
        (m.firstMarkPending = false ∧ m.stepsSinceMark + 1 = m.config.stepsPerSecond ∧ k = FaultKind.rate ∧
          ∃ prev, m.previousMark = some prev ∧ (s.elapsed - prev < 124987500 ∨ 125012500 < s.elapsed - prev)) →
      let charged := charge p k (setMon p accepted s)
      let again := charge p .skew charged
      ((charged.mon p).state = .failed → exec (.referenceStep p .high) s = .next charged) ∧
      ((charged.mon p).state ≠ .failed → SkewPasses p charged →
        exec (.referenceStep p .high) s = .next (opens charged)) ∧
      ((charged.mon p).state ≠ .failed → ¬ SkewPasses p charged →
        ((again.mon p).state = .failed → exec (.referenceStep p .high) s = .next again) ∧
        ((again.mon p).state ≠ .failed → exec (.referenceStep p .high) s = .next (opens again)))) ∧
    (FaultFreeMark m s.elapsed → ¬ SkewPasses p s →
      let charged := charge p .skew (setMon p accepted s)
      ((charged.mon p).state = .failed → exec (.referenceStep p .high) s = .next charged) ∧
      ((charged.mon p).state ≠ .failed → exec (.referenceStep p .high) s = .next (opens charged)))

/-- STEP_WINDOW_EXPIRY: MISSING_STEP is charged, and unless the path has failed the expiry stands in for the step. -/
def Obligations.WindowExpiryStandsInForTheStep : Prop :=
  ∀ (s : State) (p : Path), s.run = .running → (s.mon p).state.watches = true → (s.mon p).window = some 0 →
    let charged := charge p .missingStep s
    let m := charged.mon p
    let c := m.config
    let standIn : Monitor :=
      { m with
        refInstant := m.refInstant.map fun ref => ref + c.period
        window := some (c.period + c.tolerance)
        stepsSinceMark := m.stepsSinceMark + 1 }
    (m.state = .failed → exec (.stepWindowExpiry p) s = .next charged) ∧
    (m.state ≠ .failed → m.stepsSinceMark < c.stepsPerSecond →
      exec (.stepWindowExpiry p) s = .next (setMon p standIn charged)) ∧
    (m.state ≠ .failed → c.stepsPerSecond ≤ m.stepsSinceMark →
      let again := charge p .missingMark (setMon p standIn charged)
      ((again.mon p).state = .failed → exec (.stepWindowExpiry p) s = .next again) ∧
      ((again.mon p).state ≠ .failed →
        exec (.stepWindowExpiry p) s =
          .next (setMon p { again.mon p with stepsSinceMark := 1, previousMark := none } again)))

/-- SILENCE_TIMER_EXPIRY, HOLD_OFF_TIMER_EXPIRY and HOLDOVER_TIMER_EXPIRY. -/
def Obligations.TimersOfTheReferenceExpire : Prop :=
  (∀ (s : State) (p : Path), s.run = .running →
    let m := s.mon p
    let absent : Monitor :=
      ⟨m.config, .absent, none, none, 0, none, none, false, false, 0, 0, none, none, m.totals, m.lastFault⟩
    (m.state = .qualifying → m.silence = some 0 →
      exec (.silenceTimerExpiry p) s = .next (handOnPath p .qualifying none (setMon p absent s))) ∧
    (m.state = .failed → m.holdOff = some 0 →
      exec (.holdOffTimerExpiry p) s = .next (handOnPath p .failed none (setMon p absent s)))) ∧
  (∀ (s : State) (count : Nat), s.run = .running → s.disc.holdoverTimer = some count →
    s.disc.config.holdoverLimit ≠ 0 → s.disc.config.holdoverLimit * 125000000 ≤ count →
    (s.disc.state = .acquiring →
      exec .holdoverTimerExpiry s =
        .next (setDisc { s.disc with returnState := .free, holdoverTimer := none } s)) ∧
    (s.disc.state = .holdover →
      ∃ t, exec .holdoverTimerExpiry s = .next t ∧
        t.disc = { s.disc with state := .free, returnState := .free, holdoverTimer := none } ∧
        t.journal =
          journalAfter s.ts.era s.ts.now (.discipline .holdover .free s.disc.selected) s.journal ∧
        t.attn.stateOf .discipline = (s.attn.stateOf .discipline).whenRaised ∧
        t.ts = s.ts ∧ t.sched = s.sched ∧ t.monA = s.monA ∧
        t.monB = s.monB ∧ t.lines = s.lines ∧ t.caps = s.caps))

/-- Charging a fault counts it, keeps it as the last fault, and applies the state rule; a change of state is handed on with the
fault named. Each total increases by one up to 255. -/
def Obligations.ChargingAFault : Prop :=
  (∀ totals : FaultTotals,
    let up (n : Nat) : Nat := if n < 255 then n + 1 else n
    totals.bump .earlyStep = { totals with earlyStep := up totals.earlyStep } ∧
    totals.bump .missingStep = { totals with missingStep := up totals.missingStep } ∧
    totals.bump .missingMark = { totals with missingMark := up totals.missingMark } ∧
    totals.bump .residue = { totals with residue := up totals.residue } ∧
    totals.bump .rate = { totals with rate := up totals.rate } ∧
    totals.bump .skew = { totals with skew := up totals.skew }) ∧
  ∀ (s : State) (p : Path) (k : FaultKind),
    let m := s.mon p
    let counted : Monitor :=
      { m with totals := m.totals.bump k, lastFault := some ⟨k, s.ts.now⟩, faultSinceMark := true }
    let failed : Monitor :=
      ⟨m.config, .failed, none, none, 0, none, none, false, false, 0, 0, none,
        if m.config.autoRestart then some (m.config.holdOffSeconds * 125000000) else none, m.totals.bump k,
        some ⟨k, s.ts.now⟩⟩
    (m.state = .qualifying → charge p k s = setMon p { counted with cleanCount := 0 } s) ∧
    (m.state = .good →
      (1 < m.config.failFaults → charge p k s =
        handOnPath p .good (some k)
          (setMon p { counted with state := .suspect, suspectCount := 1, cleanCount := 0 } s)) ∧
      (m.config.failFaults ≤ 1 → charge p k s = handOnPath p .good (some k) (setMon p failed s))) ∧
    (m.state = .suspect →
      (m.suspectCount + 1 < m.config.failFaults → charge p k s =
        setMon p { counted with suspectCount := m.suspectCount + 1, cleanCount := 0 } s) ∧
      (m.config.failFaults ≤ m.suspectCount + 1 → charge p k s =
        handOnPath p .suspect (some k) (setMon p failed s))) ∧
    (m.state.watches = false → charge p k s = s)

/-- A change of path state is handed on in order: a PATH record with the path, the old and the new state, the fault and whether
the path was selected; the attention kind PATH; then the evaluation of the selection, whose DISCIPLINE record stands after the
PATH record. -/
def Obligations.PathChangeIsHandedOn : Prop :=
  ∀ (s : State) (p : Path) (old : PathState) (fault : Option FaultKind),
    let t := handOnPath p old fault s
    ∃ told : State, t = evaluate told ∧
      told = { s with
        journal := told.journal
        attn := told.attn
        link := { s.link with outbound := queueAfterRaise .path s.attn (queueAfterRecord s) } } ∧
      told.journal =
        journalAfter s.ts.era s.ts.now
          (.path p old (s.mon p).state fault (decide (s.disc.selected = some p))) s.journal ∧
      told.attn.subscribed = s.attn.subscribed ∧
      told.attn.stateOf .path = (if s.attn.stateOf .path = .quiet then .raised else s.attn.stateOf .path) ∧
      (∀ k, k ≠ .path → k ≠ .journalLevel → k ≠ .journalOverrun → told.attn.stateOf k = s.attn.stateOf k) ∧
      chosenPath told = chosenPath s ∧
      (s.disc.selected = chosenPath s → t = told) ∧
      (s.disc.selected ≠ chosenPath s →
        t.journal =
          journalAfter s.ts.era s.ts.now (.discipline s.disc.state t.disc.state (chosenPath s)) told.journal)

/-- The timescale after a path switch or a loss of the path in LOCKED (R14, R17, R21, R58, R59, R65). If it was anchored, a hold
ends, what is left of the amount goes on in the free-running time, and the whole ticks of frequency correction are in proportion
to the rest of the second, with the fraction carried on (log entries 8 and 9). A measurement is then awaited, or not. -/
def Sys2Proof.Machine.freedTimescale (awaits : Bool) (s : State) : Timescale :=
  let rest : Int := if s.ts.boundaryDue then 0 else ((125000000 - s.ts.now.tick : Nat) : Int)
  let correction : Int := s.disc.freqEstimate * rest + s.ts.freqRemainder
  if s.ts.switchPending then { s.ts with switchPending := awaits }
  else
    { s.ts with
      hold := none
      freqRemainder := correction.tmod 1000000000
      freeRun := ⟨s.ts.slewLeft, correction.tdiv 1000000000, s.ts.now.tick, 0⟩
      slewLeft := 0
      slewLost := 0
      switchPending := awaits }

/-- One evaluation of the selection: what it ends with under every policy, revertive or not, after a loss, from SUSPECT and with
nothing selected; what each outcome does to the controller, with one DISCIPLINE record for each change: the discipline state,
the return state and the holdover timer after a gain, a switch and a loss, and the frequency estimate, which every outcome
keeps; and that a switch or a loss in LOCKED sets the timescale free, while no other outcome touches it. Where the adjustments
of the rest of such a second fall (log entry 8), and that the fraction of a tick is carried on (log entry 9), are the model's
choices. -/
def Obligations.EvaluationChoosesThePath : Prop :=
  ∀ s : State, (s.disc.selected.isSome = true ↔ s.disc.state = .acquiring ∨ s.disc.state = .locked) →
    let t := evaluate s
    t.disc.selected = chosenPath s ∧ t.monA = s.monA ∧ t.monB = s.monB ∧ t.disc.config = s.disc.config ∧
    t.disc.freqEstimate = s.disc.freqEstimate ∧
    (∀ p, chosenPath s = some p → eligible s p = true) ∧
    (s.disc.config.policy = .none → chosenPath s = none) ∧
    (∀ q, (∀ p, s.disc.selected = some p → eligible s p = false) → s.disc.config.policy.preferred = some q →
      (selectable s q = true → chosenPath s = some q) ∧
      (selectable s q = false → selectable s (otherPath q) = true → chosenPath s = some (otherPath q)) ∧
      (selectable s q = false → selectable s (otherPath q) = false → chosenPath s = none)) ∧
    (∀ p, s.disc.selected = some p → eligible s p = true → (s.mon p).state = .good →
      s.disc.config.revertive = false → chosenPath s = some p) ∧
    (∀ p, s.disc.selected = some p → (s.mon p).state = .suspect → selectable s (otherPath p) = true →
      s.disc.config.policy.allows p = true → s.disc.config.revertive = false →
      chosenPath s = some (otherPath p)) ∧
    (∀ p, s.disc.selected = some p → (s.mon p).state = .suspect → selectable s (otherPath p) = false →
      s.disc.config.policy.allows p = true → s.disc.config.revertive = false → chosenPath s = some p) ∧
    (∀ p q, s.disc.selected = some p → eligible s p = true → s.disc.config.revertive = true →
      s.disc.config.policy.preferred = some q →
      ((s.mon q).state = .good → chosenPath s = some q) ∧
      ((s.mon q).state ≠ .good → (s.mon p).state = .good → chosenPath s = some p) ∧
      ((s.mon q).state ≠ .good → (s.mon p).state = .suspect →
        chosenPath s = some (if selectable s (otherPath p) then otherPath p else p))) ∧
    (s.disc.selected = chosenPath s → t = s) ∧
    (s.disc.selected ≠ chosenPath s →
      t.journal =
        journalAfter s.ts.era s.ts.now (.discipline s.disc.state t.disc.state (chosenPath s)) s.journal ∧
      t.attn.stateOf .discipline = (s.attn.stateOf .discipline).whenRaised ∧
      t.link =
        { s.link with outbound := queueAfterRaise .discipline s.attn (queueAfterRecord s) }) ∧
    (s.disc.state ≠ .locked → t.ts = s.ts) ∧
    (s.disc.state = .locked → s.disc.selected ≠ chosenPath s →
      t.ts = freedTimescale (decide (chosenPath s ≠ none)) s) ∧
    (s.disc.selected = none → chosenPath s ≠ none →
      t.disc.state = .acquiring ∧ t.disc.holdoverTimer = s.disc.holdoverTimer ∧
      t.disc.returnState = if s.disc.state = .holdover then .holdover else .free) ∧
    (s.disc.selected ≠ none → chosenPath s ≠ none →
      t.disc.state = s.disc.state ∧ t.disc.returnState = s.disc.returnState ∧
      t.disc.holdoverTimer = s.disc.holdoverTimer) ∧
    (∀ p, s.disc.selected = some p → chosenPath s = none →
      (s.disc.state = .acquiring →
        t.disc.returnState = .free ∧
        (t.disc.state = if s.disc.returnState = .holdover then .holdover else .free) ∧
        t.disc.holdoverTimer = if s.disc.returnState = .holdover then s.disc.holdoverTimer else none) ∧
      (s.disc.state = .locked → (s.mon p).state.trusted = false →
        t.disc.state = .holdover ∧ t.disc.returnState = .free ∧
        t.disc.holdoverTimer = if s.disc.config.holdoverLimit = 0 then none else some 0) ∧
      (s.disc.state = .locked → (s.mon p).state.trusted = true →
        t.disc.state = .free ∧ t.disc.returnState = .free ∧ t.disc.holdoverTimer = none))

/-- A clean second of the selected path moves the estimate one eighth of the way toward the measurement while LOCKED; a clean
second of the other path, or in another discipline state, leaves it. The estimate stays within 100,000 ppb. That a clean second
which itself makes its path the selected one counts as one of the other path is the model's choice (log entry 32). -/
def Obligations.EstimateLearnsWhileLocked : Prop :=
  ∀ (s : State) (p : Path) (ticks : Nat), 124987500 ≤ ticks → ticks ≤ 125012500 →
    s.disc.freqEstimate.natAbs ≤ 100000 →
    let measurement : Int := ((ticks : Int) - 125000000) * 8
    measurement.natAbs ≤ 100000 ∧
    (s.disc.selected = some p → s.disc.state = .locked →
      (cleanSecond p ticks s).disc.freqEstimate =
        s.disc.freqEstimate + (measurement - s.disc.freqEstimate).tdiv 8 ∧
      (cleanSecond p ticks s).disc.freqEstimate.natAbs ≤ 100000) ∧
    (s.disc.selected ≠ some p ∨ s.disc.state ≠ .locked →
      (cleanSecond p ticks s).disc.freqEstimate = s.disc.freqEstimate)

/-! ## The capture lines -/

/-- CAPTURE_EDGE: the first sample of a pin at a tick. No change of level is no edge; an edge that does not match or falls in the
dead time changes only the input level; an accepted edge starts the dead time, is recorded, arms every entry waiting on the
line and, with one-shot, turns the edge select OFF. That a second sample of a line at one tick is no event is log entry 30. -/
def Obligations.CaptureEdgeIsAcceptedOrIgnored : Prop :=
  ∀ (s : State) (i : Fin 4) (level : Level), s.run = .running →
    let c := s.caps[i]
    let edge : Edge := if level = .high then .rise else .fall
    let matched := c.select = .both ∨ (c.select = .rise ∧ edge = .rise) ∨ (c.select = .fall ∧ edge = .fall)
    let marked : State := { s with sampled := s.sampled.set i true }
    (s.sampled[i] = true → exec (.captureEdge i level) s = .next s) ∧
    (s.sampled[i] = false → c.level = level → exec (.captureEdge i level) s = .next marked) ∧
    (s.sampled[i] = false → c.level ≠ level → ¬ matched ∨ c.timer ≠ none →
      exec (.captureEdge i level) s = .next (setCap i { c with level := level } marked)) ∧
    (s.sampled[i] = false → c.level ≠ level → matched → c.timer = none →
      ∃ t, exec (.captureEdge i level) s = .next t ∧
        t.caps[i] =
          ⟨if c.oneShot then .off else c.select, c.deadTime, c.oneShot, c.record,
            if c.deadTime = 0 then none else some c.deadTime, level⟩ ∧
        (∀ j : Fin 4, j ≠ i → t.caps[j] = s.caps[j] ∧ t.sched.waiting[j] = s.sched.waiting[j]) ∧
        t.journal =
          (if c.record then
            journalAfter s.ts.era s.ts.now (.capture i edge s.ts.timeState s.disc.state) s.journal
          else s.journal) ∧
        t.sched.waiting[i] = [] ∧
        t.sched.armed.Perm
          (s.sched.armed ++ s.sched.waiting[i].map fun e =>
            ⟨e, TimeValue.ofLin (s.ts.now.lin + e.desc.offset),
              ((s.ts.now.lin + e.desc.offset) / wrapLin : Nat)⟩) ∧
        t.sampled = marked.sampled ∧ t.shown = s.shown ∧
        t.sched.admissions = s.sched.admissions ∧ t.ts = s.ts ∧ t.disc = s.disc ∧ t.lines = s.lines ∧
        t.monA = s.monA ∧ t.monB = s.monB ∧ t.run = s.run ∧ t.elapsed = s.elapsed)

/-! ## The journal and the attention unit -/

/-- A record that reaches the journal carries the current time and era; it is stored at the tail while there is a free place, and
missed otherwise; JOURNAL_LEVEL is raised when the fill reaches the threshold, and the raise may queue a NOTICE. -/
def Obligations.RecordIsStoredOrMissed : Prop :=
  ∀ (s : State) (body : RecordBody),
    let t := appendRecord body s
    t.journal = journalAfter s.ts.era s.ts.now body s.journal ∧
    t = { s with
      journal := t.journal
      attn := t.attn
      link := { s.link with outbound := queueAfterRecord s } } ∧
    t.attn.subscribed = s.attn.subscribed ∧
    (∀ k, k ≠ .journalLevel → k ≠ .journalOverrun → t.attn.stateOf k = s.attn.stateOf k) ∧
    (s.journal.records.length < 256 →
      t.attn.stateOf .journalOverrun = s.attn.stateOf .journalOverrun ∧
      t.attn.stateOf .journalLevel =
        if s.journal.records.length + 1 = s.journal.threshold ∧ s.attn.stateOf .journalLevel = .quiet then
          .raised
        else s.attn.stateOf .journalLevel)

/-- A record that arrives at a full journal not in overrun is missed: the overrun begins, JOURNAL_OVERRUN is raised (it becomes
RAISED if it was QUIET, and stays as it was if not), every other kind stays as it was, and the stored records stay. -/
def Obligations.MissStartsAnOverrun : Prop :=
  ∀ (s : State) (body : RecordBody), s.journal.records.length = 256 → s.journal.overrun = false →
    let t := appendRecord body s
    t.journal = { s.journal with overrun := true, missed := 1, firstMissed := s.ts.now } ∧
    t.journal.records = s.journal.records ∧
    t.attn.stateOf .journalOverrun = (s.attn.stateOf .journalOverrun).whenRaised ∧
    (∀ k, k ≠ .journalOverrun → t.attn.stateOf k = s.attn.stateOf k) ∧
    byteAt 13 (statusBytes t) = 1 ∧ (∀ records, byteAt 2 (readReply records t).body = 1)

/-- A record that arrives in an overrun, of whatever kind, is missed: the missed count increases up to 65,535, and nothing else
changes. -/
def Obligations.MissWithinAnOverrun : Prop :=
  ∀ (s : State) (body : RecordBody), s.journal.records.length = 256 → s.journal.overrun = true →
    appendRecord body s =
      { s with journal :=
        { s.journal with missed := if s.journal.missed < 65535 then s.journal.missed + 1 else s.journal.missed } }

/-- Raising a QUIET kind makes it RAISED, and queues a NOTICE if it is subscribed and the notice place is free; raising a RAISED or
NOTIFIED kind changes nothing. The pin ATTN_N of a part that runs is low exactly while a subscribed kind is RAISED or NOTIFIED. -/
def Obligations.RaisingAKind : Prop :=
  (∀ s : State, attnLow s = true ↔
    s.run = .running ∧ ∃ k, s.attn.isSubscribed k = true ∧
      (s.attn.stateOf k = .raised ∨ s.attn.stateOf k = .notified)) ∧
  ∀ (s : State) (k : AttnKind),
    let raised : State := { s with attn := { s.attn with states := s.attn.states.set k.idx .raised } }
    (s.attn.stateOf k ≠ .quiet → raise k s = s) ∧
    (s.attn.stateOf k = .quiet →
      (s.attn.isSubscribed k = false ∨ noticePlaceFree s.link = false → raise k s = raised) ∧
      (s.attn.isSubscribed k = true → noticePlaceFree s.link = true →
        raise k s = { raised with link := { s.link with outbound := s.link.outbound ++ [.notice] } }))

/-! ## What always holds -/

/-- Right after power-on everything that always holds does hold. -/
def Obligations.ResetMeetsWhatAlwaysHolds : Prop :=
  JournalOk State.reset.journal ∧ LinkOk State.reset.link ∧ NoticeOk State.reset ∧ ClockOk State.reset ∧
    DisciplineOk State.reset ∧ MonitorsOk State.reset ∧ ScheduleOk State.reset ∧ LinesOk State.reset

/-- Every step keeps what always holds of the journal: its bound, its delivered count, its numbering. -/
def Obligations.JournalStaysWhole : Prop :=
  ∀ s t : State, JournalOk s.journal → step s = .next t → JournalOk t.journal

/-- Every step keeps what always holds of the link controller: its queues, its places, its partial frame. -/
def Obligations.LinkStaysWithinItsPlaces : Prop :=
  ∀ s t : State, LinkOk s.link → step s = .next t → LinkOk t.link

/-- Every step keeps that a subscribed RAISED kind has a NOTICE or an ANNOUNCE waiting. -/
def Obligations.RaisedKindsHaveANoticeWaiting : Prop :=
  ∀ s t : State, NoticeOk s → step s = .next t → NoticeOk t

/-- Every step keeps the time a point of the timescale and every item of Table 1.2 in its range. -/
def Obligations.ClockStaysInRange : Prop :=
  ∀ s t : State, ClockOk s → DisciplineOk s → step s = .next t → ClockOk t

/-- Every step keeps that a path is selected exactly in ACQUIRING and LOCKED, and is then GOOD or SUSPECT and allowed. -/
def Obligations.SelectedPathStaysTrusted : Prop :=
  ∀ s t : State, DisciplineOk s → step s = .next t → DisciplineOk t

/-- Every step keeps the items of each monitor as its path state has them. -/
def Obligations.MonitorsKeepTheirShape : Prop :=
  ∀ s t : State, MonitorsOk s → step s = .next t → MonitorsOk t

/-- Every step keeps the schedule within its capacity, its handles distinct, its armed list in order, and every entry on a
SCHEDULED line; it is empty while the time is UNSET. -/
def Obligations.ScheduleStaysInOrder : Prop :=
  ∀ s t : State, ScheduleOk s → step s = .next t → ScheduleOk t

/-- Every step keeps that a trailing edge is pending only on a SCHEDULED line at its non-idle level. -/
def Obligations.PulsesOnlyOnScheduledLines : Prop :=
  ∀ s t : State, ScheduleOk s → LinesOk s → step s = .next t → LinesOk t
end

