-- ==== Sys2Proof/Laws/State.lean ====
section
/-! SUPPORT. What each named update of the state changes and leaves: one lemma for each field, true by unfolding, so that
no later proof unfolds an update. -/

namespace Sys2Proof.Machine

variable (s : State)

/-! ### setTs -/

@[simp] theorem setTs_run (t : Timescale) : (setTs t s).run = s.run := rfl
@[simp] theorem setTs_elapsed (t : Timescale) : (setTs t s).elapsed = s.elapsed := rfl
@[simp] theorem setTs_ts (t : Timescale) : (setTs t s).ts = t := rfl
@[simp] theorem setTs_monA (t : Timescale) : (setTs t s).monA = s.monA := rfl
@[simp] theorem setTs_monB (t : Timescale) : (setTs t s).monB = s.monB := rfl
@[simp] theorem setTs_disc (t : Timescale) : (setTs t s).disc = s.disc := rfl
@[simp] theorem setTs_sched (t : Timescale) : (setTs t s).sched = s.sched := rfl
@[simp] theorem setTs_lines (t : Timescale) : (setTs t s).lines = s.lines := rfl
@[simp] theorem setTs_caps (t : Timescale) : (setTs t s).caps = s.caps := rfl
@[simp] theorem setTs_shown (t : Timescale) : (setTs t s).shown = s.shown := rfl
@[simp] theorem setTs_sampled (t : Timescale) : (setTs t s).sampled = s.sampled := rfl
@[simp] theorem setTs_journal (t : Timescale) : (setTs t s).journal = s.journal := rfl
@[simp] theorem setTs_attn (t : Timescale) : (setTs t s).attn = s.attn := rfl
@[simp] theorem setTs_link (t : Timescale) : (setTs t s).link = s.link := rfl
@[simp] theorem setTs_choices (t : Timescale) : (setTs t s).choices = s.choices := rfl
@[simp] theorem setTs_pending (t : Timescale) : (setTs t s).pending = s.pending := rfl

/-! ### setDisc -/

@[simp] theorem setDisc_run (d : Discipline) : (setDisc d s).run = s.run := rfl
@[simp] theorem setDisc_elapsed (d : Discipline) : (setDisc d s).elapsed = s.elapsed := rfl
@[simp] theorem setDisc_ts (d : Discipline) : (setDisc d s).ts = s.ts := rfl
@[simp] theorem setDisc_monA (d : Discipline) : (setDisc d s).monA = s.monA := rfl
@[simp] theorem setDisc_monB (d : Discipline) : (setDisc d s).monB = s.monB := rfl
@[simp] theorem setDisc_disc (d : Discipline) : (setDisc d s).disc = d := rfl
@[simp] theorem setDisc_sched (d : Discipline) : (setDisc d s).sched = s.sched := rfl
@[simp] theorem setDisc_lines (d : Discipline) : (setDisc d s).lines = s.lines := rfl
@[simp] theorem setDisc_caps (d : Discipline) : (setDisc d s).caps = s.caps := rfl
@[simp] theorem setDisc_shown (d : Discipline) : (setDisc d s).shown = s.shown := rfl
@[simp] theorem setDisc_sampled (d : Discipline) : (setDisc d s).sampled = s.sampled := rfl
@[simp] theorem setDisc_journal (d : Discipline) : (setDisc d s).journal = s.journal := rfl
@[simp] theorem setDisc_attn (d : Discipline) : (setDisc d s).attn = s.attn := rfl
@[simp] theorem setDisc_link (d : Discipline) : (setDisc d s).link = s.link := rfl
@[simp] theorem setDisc_choices (d : Discipline) : (setDisc d s).choices = s.choices := rfl
@[simp] theorem setDisc_pending (d : Discipline) : (setDisc d s).pending = s.pending := rfl

/-! ### setLine -/

@[simp] theorem setLine_run (i : Fin 8) (l : OutLine) : (setLine i l s).run = s.run := rfl
@[simp] theorem setLine_elapsed (i : Fin 8) (l : OutLine) : (setLine i l s).elapsed = s.elapsed := rfl
@[simp] theorem setLine_ts (i : Fin 8) (l : OutLine) : (setLine i l s).ts = s.ts := rfl
@[simp] theorem setLine_monA (i : Fin 8) (l : OutLine) : (setLine i l s).monA = s.monA := rfl
@[simp] theorem setLine_monB (i : Fin 8) (l : OutLine) : (setLine i l s).monB = s.monB := rfl
@[simp] theorem setLine_disc (i : Fin 8) (l : OutLine) : (setLine i l s).disc = s.disc := rfl
@[simp] theorem setLine_sched (i : Fin 8) (l : OutLine) : (setLine i l s).sched = s.sched := rfl
@[simp] theorem setLine_lines (i : Fin 8) (l : OutLine) : (setLine i l s).lines = s.lines.set i l := rfl
@[simp] theorem setLine_caps (i : Fin 8) (l : OutLine) : (setLine i l s).caps = s.caps := rfl
@[simp] theorem setLine_shown (i : Fin 8) (l : OutLine) : (setLine i l s).shown = s.shown := rfl
@[simp] theorem setLine_sampled (i : Fin 8) (l : OutLine) : (setLine i l s).sampled = s.sampled := rfl
@[simp] theorem setLine_journal (i : Fin 8) (l : OutLine) : (setLine i l s).journal = s.journal := rfl
@[simp] theorem setLine_attn (i : Fin 8) (l : OutLine) : (setLine i l s).attn = s.attn := rfl
@[simp] theorem setLine_link (i : Fin 8) (l : OutLine) : (setLine i l s).link = s.link := rfl
@[simp] theorem setLine_choices (i : Fin 8) (l : OutLine) : (setLine i l s).choices = s.choices := rfl
@[simp] theorem setLine_pending (i : Fin 8) (l : OutLine) : (setLine i l s).pending = s.pending := rfl

/-! ### setCap -/

@[simp] theorem setCap_run (i : Fin 4) (c : CapLine) : (setCap i c s).run = s.run := rfl
@[simp] theorem setCap_elapsed (i : Fin 4) (c : CapLine) : (setCap i c s).elapsed = s.elapsed := rfl
@[simp] theorem setCap_ts (i : Fin 4) (c : CapLine) : (setCap i c s).ts = s.ts := rfl
@[simp] theorem setCap_monA (i : Fin 4) (c : CapLine) : (setCap i c s).monA = s.monA := rfl
@[simp] theorem setCap_monB (i : Fin 4) (c : CapLine) : (setCap i c s).monB = s.monB := rfl
@[simp] theorem setCap_disc (i : Fin 4) (c : CapLine) : (setCap i c s).disc = s.disc := rfl
@[simp] theorem setCap_sched (i : Fin 4) (c : CapLine) : (setCap i c s).sched = s.sched := rfl
@[simp] theorem setCap_lines (i : Fin 4) (c : CapLine) : (setCap i c s).lines = s.lines := rfl
@[simp] theorem setCap_caps (i : Fin 4) (c : CapLine) : (setCap i c s).caps = s.caps.set i c := rfl
@[simp] theorem setCap_shown (i : Fin 4) (c : CapLine) : (setCap i c s).shown = s.shown := rfl
@[simp] theorem setCap_sampled (i : Fin 4) (c : CapLine) : (setCap i c s).sampled = s.sampled := rfl
@[simp] theorem setCap_journal (i : Fin 4) (c : CapLine) : (setCap i c s).journal = s.journal := rfl
@[simp] theorem setCap_attn (i : Fin 4) (c : CapLine) : (setCap i c s).attn = s.attn := rfl
@[simp] theorem setCap_link (i : Fin 4) (c : CapLine) : (setCap i c s).link = s.link := rfl
@[simp] theorem setCap_choices (i : Fin 4) (c : CapLine) : (setCap i c s).choices = s.choices := rfl
@[simp] theorem setCap_pending (i : Fin 4) (c : CapLine) : (setCap i c s).pending = s.pending := rfl

/-! ### setKinds -/

@[simp] theorem setKinds_run (v : Vector AttnState 7) : (setKinds v s).run = s.run := rfl
@[simp] theorem setKinds_elapsed (v : Vector AttnState 7) : (setKinds v s).elapsed = s.elapsed := rfl
@[simp] theorem setKinds_ts (v : Vector AttnState 7) : (setKinds v s).ts = s.ts := rfl
@[simp] theorem setKinds_monA (v : Vector AttnState 7) : (setKinds v s).monA = s.monA := rfl
@[simp] theorem setKinds_monB (v : Vector AttnState 7) : (setKinds v s).monB = s.monB := rfl
@[simp] theorem setKinds_disc (v : Vector AttnState 7) : (setKinds v s).disc = s.disc := rfl
@[simp] theorem setKinds_sched (v : Vector AttnState 7) : (setKinds v s).sched = s.sched := rfl
@[simp] theorem setKinds_lines (v : Vector AttnState 7) : (setKinds v s).lines = s.lines := rfl
@[simp] theorem setKinds_caps (v : Vector AttnState 7) : (setKinds v s).caps = s.caps := rfl
@[simp] theorem setKinds_shown (v : Vector AttnState 7) : (setKinds v s).shown = s.shown := rfl
@[simp] theorem setKinds_sampled (v : Vector AttnState 7) : (setKinds v s).sampled = s.sampled := rfl
@[simp] theorem setKinds_journal (v : Vector AttnState 7) : (setKinds v s).journal = s.journal := rfl
@[simp] theorem setKinds_attn (v : Vector AttnState 7) : (setKinds v s).attn = { s.attn with states := v } := rfl
@[simp] theorem setKinds_link (v : Vector AttnState 7) : (setKinds v s).link = s.link := rfl
@[simp] theorem setKinds_choices (v : Vector AttnState 7) : (setKinds v s).choices = s.choices := rfl
@[simp] theorem setKinds_pending (v : Vector AttnState 7) : (setKinds v s).pending = s.pending := rfl

/-! ### queueFrame -/

@[simp] theorem queueFrame_run (f : OutFrame) : (queueFrame f s).run = s.run := rfl
@[simp] theorem queueFrame_elapsed (f : OutFrame) : (queueFrame f s).elapsed = s.elapsed := rfl
@[simp] theorem queueFrame_ts (f : OutFrame) : (queueFrame f s).ts = s.ts := rfl
@[simp] theorem queueFrame_monA (f : OutFrame) : (queueFrame f s).monA = s.monA := rfl
@[simp] theorem queueFrame_monB (f : OutFrame) : (queueFrame f s).monB = s.monB := rfl
@[simp] theorem queueFrame_disc (f : OutFrame) : (queueFrame f s).disc = s.disc := rfl
@[simp] theorem queueFrame_sched (f : OutFrame) : (queueFrame f s).sched = s.sched := rfl
@[simp] theorem queueFrame_lines (f : OutFrame) : (queueFrame f s).lines = s.lines := rfl
@[simp] theorem queueFrame_caps (f : OutFrame) : (queueFrame f s).caps = s.caps := rfl
@[simp] theorem queueFrame_shown (f : OutFrame) : (queueFrame f s).shown = s.shown := rfl
@[simp] theorem queueFrame_sampled (f : OutFrame) : (queueFrame f s).sampled = s.sampled := rfl
@[simp] theorem queueFrame_journal (f : OutFrame) : (queueFrame f s).journal = s.journal := rfl
@[simp] theorem queueFrame_attn (f : OutFrame) : (queueFrame f s).attn = s.attn := rfl
@[simp] theorem queueFrame_link (f : OutFrame) : (queueFrame f s).link = { s.link with outbound := s.link.outbound ++ [f] } := rfl
@[simp] theorem queueFrame_choices (f : OutFrame) : (queueFrame f s).choices = s.choices := rfl
@[simp] theorem queueFrame_pending (f : OutFrame) : (queueFrame f s).pending = s.pending := rfl

/-! ### setArmed -/

@[simp] theorem setArmed_run (l : List ArmedEntry) : (setArmed l s).run = s.run := rfl
@[simp] theorem setArmed_elapsed (l : List ArmedEntry) : (setArmed l s).elapsed = s.elapsed := rfl
@[simp] theorem setArmed_ts (l : List ArmedEntry) : (setArmed l s).ts = s.ts := rfl
@[simp] theorem setArmed_monA (l : List ArmedEntry) : (setArmed l s).monA = s.monA := rfl
@[simp] theorem setArmed_monB (l : List ArmedEntry) : (setArmed l s).monB = s.monB := rfl
@[simp] theorem setArmed_disc (l : List ArmedEntry) : (setArmed l s).disc = s.disc := rfl
@[simp] theorem setArmed_sched (l : List ArmedEntry) : (setArmed l s).sched = { s.sched with armed := l } := rfl
@[simp] theorem setArmed_lines (l : List ArmedEntry) : (setArmed l s).lines = s.lines := rfl
@[simp] theorem setArmed_caps (l : List ArmedEntry) : (setArmed l s).caps = s.caps := rfl
@[simp] theorem setArmed_shown (l : List ArmedEntry) : (setArmed l s).shown = s.shown := rfl
@[simp] theorem setArmed_sampled (l : List ArmedEntry) : (setArmed l s).sampled = s.sampled := rfl
@[simp] theorem setArmed_journal (l : List ArmedEntry) : (setArmed l s).journal = s.journal := rfl
@[simp] theorem setArmed_attn (l : List ArmedEntry) : (setArmed l s).attn = s.attn := rfl
@[simp] theorem setArmed_link (l : List ArmedEntry) : (setArmed l s).link = s.link := rfl
@[simp] theorem setArmed_choices (l : List ArmedEntry) : (setArmed l s).choices = s.choices := rfl
@[simp] theorem setArmed_pending (l : List ArmedEntry) : (setArmed l s).pending = s.pending := rfl

/-! ### setWaiting -/

@[simp] theorem setWaiting_run (i : Fin 4) (l : List Entry) : (setWaiting i l s).run = s.run := rfl
@[simp] theorem setWaiting_elapsed (i : Fin 4) (l : List Entry) : (setWaiting i l s).elapsed = s.elapsed := rfl
@[simp] theorem setWaiting_ts (i : Fin 4) (l : List Entry) : (setWaiting i l s).ts = s.ts := rfl
@[simp] theorem setWaiting_monA (i : Fin 4) (l : List Entry) : (setWaiting i l s).monA = s.monA := rfl
@[simp] theorem setWaiting_monB (i : Fin 4) (l : List Entry) : (setWaiting i l s).monB = s.monB := rfl
@[simp] theorem setWaiting_disc (i : Fin 4) (l : List Entry) : (setWaiting i l s).disc = s.disc := rfl
@[simp] theorem setWaiting_sched (i : Fin 4) (l : List Entry) : (setWaiting i l s).sched = { s.sched with waiting := s.sched.waiting.set i l } := rfl
@[simp] theorem setWaiting_lines (i : Fin 4) (l : List Entry) : (setWaiting i l s).lines = s.lines := rfl
@[simp] theorem setWaiting_caps (i : Fin 4) (l : List Entry) : (setWaiting i l s).caps = s.caps := rfl
@[simp] theorem setWaiting_shown (i : Fin 4) (l : List Entry) : (setWaiting i l s).shown = s.shown := rfl
@[simp] theorem setWaiting_sampled (i : Fin 4) (l : List Entry) : (setWaiting i l s).sampled = s.sampled := rfl
@[simp] theorem setWaiting_journal (i : Fin 4) (l : List Entry) : (setWaiting i l s).journal = s.journal := rfl
@[simp] theorem setWaiting_attn (i : Fin 4) (l : List Entry) : (setWaiting i l s).attn = s.attn := rfl
@[simp] theorem setWaiting_link (i : Fin 4) (l : List Entry) : (setWaiting i l s).link = s.link := rfl
@[simp] theorem setWaiting_choices (i : Fin 4) (l : List Entry) : (setWaiting i l s).choices = s.choices := rfl
@[simp] theorem setWaiting_pending (i : Fin 4) (l : List Entry) : (setWaiting i l s).pending = s.pending := rfl

/-! ### dequeueRequest -/

@[simp] theorem dequeueRequest_run : (dequeueRequest s).run = s.run := rfl
@[simp] theorem dequeueRequest_elapsed : (dequeueRequest s).elapsed = s.elapsed := rfl
@[simp] theorem dequeueRequest_ts : (dequeueRequest s).ts = s.ts := rfl
@[simp] theorem dequeueRequest_monA : (dequeueRequest s).monA = s.monA := rfl
@[simp] theorem dequeueRequest_monB : (dequeueRequest s).monB = s.monB := rfl
@[simp] theorem dequeueRequest_disc : (dequeueRequest s).disc = s.disc := rfl
@[simp] theorem dequeueRequest_sched : (dequeueRequest s).sched = s.sched := rfl
@[simp] theorem dequeueRequest_lines : (dequeueRequest s).lines = s.lines := rfl
@[simp] theorem dequeueRequest_caps : (dequeueRequest s).caps = s.caps := rfl
@[simp] theorem dequeueRequest_shown : (dequeueRequest s).shown = s.shown := rfl
@[simp] theorem dequeueRequest_sampled : (dequeueRequest s).sampled = s.sampled := rfl
@[simp] theorem dequeueRequest_journal : (dequeueRequest s).journal = s.journal := rfl
@[simp] theorem dequeueRequest_attn : (dequeueRequest s).attn = s.attn := rfl
@[simp] theorem dequeueRequest_link : (dequeueRequest s).link = { s.link with requests := s.link.requests.tail } := rfl
@[simp] theorem dequeueRequest_choices : (dequeueRequest s).choices = s.choices := rfl
@[simp] theorem dequeueRequest_pending : (dequeueRequest s).pending = s.pending := rfl

/-! ### setReceiver -/

@[simp] theorem setReceiver_run (rx : RxState) (bytes : List Byte) : (setReceiver rx bytes s).run = s.run := rfl
@[simp] theorem setReceiver_elapsed (rx : RxState) (bytes : List Byte) : (setReceiver rx bytes s).elapsed = s.elapsed := rfl
@[simp] theorem setReceiver_ts (rx : RxState) (bytes : List Byte) : (setReceiver rx bytes s).ts = s.ts := rfl
@[simp] theorem setReceiver_monA (rx : RxState) (bytes : List Byte) : (setReceiver rx bytes s).monA = s.monA := rfl
@[simp] theorem setReceiver_monB (rx : RxState) (bytes : List Byte) : (setReceiver rx bytes s).monB = s.monB := rfl
@[simp] theorem setReceiver_disc (rx : RxState) (bytes : List Byte) : (setReceiver rx bytes s).disc = s.disc := rfl
@[simp] theorem setReceiver_sched (rx : RxState) (bytes : List Byte) : (setReceiver rx bytes s).sched = s.sched := rfl
@[simp] theorem setReceiver_lines (rx : RxState) (bytes : List Byte) : (setReceiver rx bytes s).lines = s.lines := rfl
@[simp] theorem setReceiver_caps (rx : RxState) (bytes : List Byte) : (setReceiver rx bytes s).caps = s.caps := rfl
@[simp] theorem setReceiver_shown (rx : RxState) (bytes : List Byte) : (setReceiver rx bytes s).shown = s.shown := rfl
@[simp] theorem setReceiver_sampled (rx : RxState) (bytes : List Byte) : (setReceiver rx bytes s).sampled = s.sampled := rfl
@[simp] theorem setReceiver_journal (rx : RxState) (bytes : List Byte) : (setReceiver rx bytes s).journal = s.journal := rfl
@[simp] theorem setReceiver_attn (rx : RxState) (bytes : List Byte) : (setReceiver rx bytes s).attn = s.attn := rfl
@[simp] theorem setReceiver_link (rx : RxState) (bytes : List Byte) : (setReceiver rx bytes s).link = { s.link with rx := rx, rxBytes := bytes } := rfl
@[simp] theorem setReceiver_choices (rx : RxState) (bytes : List Byte) : (setReceiver rx bytes s).choices = s.choices := rfl
@[simp] theorem setReceiver_pending (rx : RxState) (bytes : List Byte) : (setReceiver rx bytes s).pending = s.pending := rfl

/-! ### setDelivered -/

@[simp] theorem setDelivered_run (count : Nat) : (setDelivered count s).run = s.run := rfl
@[simp] theorem setDelivered_elapsed (count : Nat) : (setDelivered count s).elapsed = s.elapsed := rfl
@[simp] theorem setDelivered_ts (count : Nat) : (setDelivered count s).ts = s.ts := rfl
@[simp] theorem setDelivered_monA (count : Nat) : (setDelivered count s).monA = s.monA := rfl
@[simp] theorem setDelivered_monB (count : Nat) : (setDelivered count s).monB = s.monB := rfl
@[simp] theorem setDelivered_disc (count : Nat) : (setDelivered count s).disc = s.disc := rfl
@[simp] theorem setDelivered_sched (count : Nat) : (setDelivered count s).sched = s.sched := rfl
@[simp] theorem setDelivered_lines (count : Nat) : (setDelivered count s).lines = s.lines := rfl
@[simp] theorem setDelivered_caps (count : Nat) : (setDelivered count s).caps = s.caps := rfl
@[simp] theorem setDelivered_shown (count : Nat) : (setDelivered count s).shown = s.shown := rfl
@[simp] theorem setDelivered_sampled (count : Nat) : (setDelivered count s).sampled = s.sampled := rfl
@[simp] theorem setDelivered_journal (count : Nat) : (setDelivered count s).journal = { s.journal with delivered := count } := rfl
@[simp] theorem setDelivered_attn (count : Nat) : (setDelivered count s).attn = s.attn := rfl
@[simp] theorem setDelivered_link (count : Nat) : (setDelivered count s).link = s.link := rfl
@[simp] theorem setDelivered_choices (count : Nat) : (setDelivered count s).choices = s.choices := rfl
@[simp] theorem setDelivered_pending (count : Nat) : (setDelivered count s).pending = s.pending := rfl

/-! ### setMon -/

@[simp] theorem setMon_run (p : Path) (m : Monitor) : (setMon p m s).run = s.run := by cases p <;> rfl
@[simp] theorem setMon_elapsed (p : Path) (m : Monitor) : (setMon p m s).elapsed = s.elapsed := by cases p <;> rfl
@[simp] theorem setMon_ts (p : Path) (m : Monitor) : (setMon p m s).ts = s.ts := by cases p <;> rfl
@[simp] theorem setMon_disc (p : Path) (m : Monitor) : (setMon p m s).disc = s.disc := by cases p <;> rfl
@[simp] theorem setMon_sched (p : Path) (m : Monitor) : (setMon p m s).sched = s.sched := by cases p <;> rfl
@[simp] theorem setMon_lines (p : Path) (m : Monitor) : (setMon p m s).lines = s.lines := by cases p <;> rfl
@[simp] theorem setMon_caps (p : Path) (m : Monitor) : (setMon p m s).caps = s.caps := by cases p <;> rfl
@[simp] theorem setMon_shown (p : Path) (m : Monitor) : (setMon p m s).shown = s.shown := by cases p <;> rfl
@[simp] theorem setMon_sampled (p : Path) (m : Monitor) : (setMon p m s).sampled = s.sampled := by cases p <;> rfl
@[simp] theorem setMon_journal (p : Path) (m : Monitor) : (setMon p m s).journal = s.journal := by cases p <;> rfl
@[simp] theorem setMon_attn (p : Path) (m : Monitor) : (setMon p m s).attn = s.attn := by cases p <;> rfl
@[simp] theorem setMon_link (p : Path) (m : Monitor) : (setMon p m s).link = s.link := by cases p <;> rfl
@[simp] theorem setMon_choices (p : Path) (m : Monitor) : (setMon p m s).choices = s.choices := by cases p <;> rfl
@[simp] theorem setMon_pending (p : Path) (m : Monitor) : (setMon p m s).pending = s.pending := by cases p <;> rfl

@[simp] theorem setMon_mon (p : Path) (m : Monitor) : (setMon p m s).mon p = m := by cases p <;> rfl
@[simp] theorem setMon_mon_other (p : Path) (m : Monitor) : (setMon p m s).mon (otherPath p) = s.mon (otherPath p) := by
  cases p <;> rfl

/-! ### withPending -/

@[simp] theorem withPending_run (queue : List Instr) : (s.withPending queue).run = s.run := rfl
@[simp] theorem withPending_elapsed (queue : List Instr) : (s.withPending queue).elapsed = s.elapsed := rfl
@[simp] theorem withPending_ts (queue : List Instr) : (s.withPending queue).ts = s.ts := rfl
@[simp] theorem withPending_monA (queue : List Instr) : (s.withPending queue).monA = s.monA := rfl
@[simp] theorem withPending_monB (queue : List Instr) : (s.withPending queue).monB = s.monB := rfl
@[simp] theorem withPending_disc (queue : List Instr) : (s.withPending queue).disc = s.disc := rfl
@[simp] theorem withPending_sched (queue : List Instr) : (s.withPending queue).sched = s.sched := rfl
@[simp] theorem withPending_lines (queue : List Instr) : (s.withPending queue).lines = s.lines := rfl
@[simp] theorem withPending_caps (queue : List Instr) : (s.withPending queue).caps = s.caps := rfl
@[simp] theorem withPending_shown (queue : List Instr) : (s.withPending queue).shown = s.shown := rfl
@[simp] theorem withPending_sampled (queue : List Instr) : (s.withPending queue).sampled = s.sampled := rfl
@[simp] theorem withPending_journal (queue : List Instr) : (s.withPending queue).journal = s.journal := rfl
@[simp] theorem withPending_attn (queue : List Instr) : (s.withPending queue).attn = s.attn := rfl
@[simp] theorem withPending_link (queue : List Instr) : (s.withPending queue).link = s.link := rfl
@[simp] theorem withPending_choices (queue : List Instr) : (s.withPending queue).choices = s.choices := rfl
@[simp] theorem withPending_pending (queue : List Instr) : (s.withPending queue).pending = queue := rfl

/-! ### markSampled -/

@[simp] theorem markSampled_run (i : Fin 4) : (markSampled i s).run = s.run := rfl
@[simp] theorem markSampled_elapsed (i : Fin 4) : (markSampled i s).elapsed = s.elapsed := rfl
@[simp] theorem markSampled_ts (i : Fin 4) : (markSampled i s).ts = s.ts := rfl
@[simp] theorem markSampled_monA (i : Fin 4) : (markSampled i s).monA = s.monA := rfl
@[simp] theorem markSampled_monB (i : Fin 4) : (markSampled i s).monB = s.monB := rfl
@[simp] theorem markSampled_disc (i : Fin 4) : (markSampled i s).disc = s.disc := rfl
@[simp] theorem markSampled_sched (i : Fin 4) : (markSampled i s).sched = s.sched := rfl
@[simp] theorem markSampled_lines (i : Fin 4) : (markSampled i s).lines = s.lines := rfl
@[simp] theorem markSampled_caps (i : Fin 4) : (markSampled i s).caps = s.caps := rfl
@[simp] theorem markSampled_shown (i : Fin 4) : (markSampled i s).shown = s.shown := rfl
@[simp] theorem markSampled_sampled (i : Fin 4) : (markSampled i s).sampled = s.sampled.set i true := rfl
@[simp] theorem markSampled_journal (i : Fin 4) : (markSampled i s).journal = s.journal := rfl
@[simp] theorem markSampled_attn (i : Fin 4) : (markSampled i s).attn = s.attn := rfl
@[simp] theorem markSampled_link (i : Fin 4) : (markSampled i s).link = s.link := rfl
@[simp] theorem markSampled_choices (i : Fin 4) : (markSampled i s).choices = s.choices := rfl
@[simp] theorem markSampled_pending (i : Fin 4) : (markSampled i s).pending = s.pending := rfl

/-! ### endInstant -/

@[simp] theorem endInstant_run : (endInstant s).run = s.run := rfl
@[simp] theorem endInstant_elapsed : (endInstant s).elapsed = s.elapsed := rfl
@[simp] theorem endInstant_ts : (endInstant s).ts = s.ts := rfl
@[simp] theorem endInstant_monA : (endInstant s).monA = s.monA := rfl
@[simp] theorem endInstant_monB : (endInstant s).monB = s.monB := rfl
@[simp] theorem endInstant_disc : (endInstant s).disc = s.disc := rfl
@[simp] theorem endInstant_sched : (endInstant s).sched = s.sched := rfl
@[simp] theorem endInstant_lines : (endInstant s).lines = s.lines := rfl
@[simp] theorem endInstant_caps : (endInstant s).caps = s.caps := rfl
@[simp] theorem endInstant_shown : (endInstant s).shown = mapVec OutLine.level s.lines := rfl
@[simp] theorem endInstant_sampled : (endInstant s).sampled = Vector.replicate 4 false := rfl
@[simp] theorem endInstant_journal : (endInstant s).journal = s.journal := rfl
@[simp] theorem endInstant_attn : (endInstant s).attn = s.attn := rfl
@[simp] theorem endInstant_link : (endInstant s).link = s.link := rfl
@[simp] theorem endInstant_choices : (endInstant s).choices = s.choices := rfl
@[simp] theorem endInstant_pending : (endInstant s).pending = s.pending := rfl

/-! ### tickTimers -/

@[simp] theorem tickTimers_run : (tickTimers s).run = s.run := rfl
@[simp] theorem tickTimers_elapsed : (tickTimers s).elapsed = s.elapsed := rfl
@[simp] theorem tickTimers_ts : (tickTimers s).ts = s.ts := rfl
@[simp] theorem tickTimers_monA : (tickTimers s).monA = s.monA.tick := rfl
@[simp] theorem tickTimers_monB : (tickTimers s).monB = s.monB.tick := rfl
@[simp] theorem tickTimers_disc : (tickTimers s).disc = s.disc.tick := rfl
@[simp] theorem tickTimers_sched : (tickTimers s).sched = s.sched := rfl
@[simp] theorem tickTimers_lines : (tickTimers s).lines = mapVec OutLine.tick s.lines := rfl
@[simp] theorem tickTimers_caps : (tickTimers s).caps = mapVec CapLine.tick s.caps := rfl
@[simp] theorem tickTimers_shown : (tickTimers s).shown = s.shown := rfl
@[simp] theorem tickTimers_sampled : (tickTimers s).sampled = s.sampled := rfl
@[simp] theorem tickTimers_journal : (tickTimers s).journal = s.journal := rfl
@[simp] theorem tickTimers_attn : (tickTimers s).attn = s.attn := rfl
@[simp] theorem tickTimers_link : (tickTimers s).link = s.link := rfl
@[simp] theorem tickTimers_choices : (tickTimers s).choices = s.choices := rfl
@[simp] theorem tickTimers_pending : (tickTimers s).pending = s.pending := rfl

/-! ### mapVec and zipVec -/

@[simp] theorem mapVec_getElem {α β : Type} {n : Nat} (f : α → β) (v : Vector α n) (i : Nat) (h : i < n) :
    (mapVec f v)[i] = f v[i] := by
  simp [mapVec]

theorem mapVec_eq_map {α β : Type} {n : Nat} (f : α → β) (v : Vector α n) : mapVec f v = v.map f := by
  ext i h; simp

@[simp] theorem zipVec_getElem {α β γ : Type} {n : Nat} (f : α → β → γ) (v : Vector α n) (w : Vector β n) (i : Nat)
    (h : i < n) : (zipVec f v w)[i] = f v[i] w[i] := by
  simp [zipVec]

end Sys2Proof.Machine
end

