-- ==== Sys2Proof/Laws/Reports.lean ====
section
/-! SUPPORT. What raising a kind and appending a record can do: they touch the attention states, the journal and the
outbound queue, and nothing else. -/

namespace Sys2Proof.Machine

variable (s : State)

/-! ## Raising -/

/-- Judging either queues one NOTICE into a free place, or does nothing. -/
theorem judgeNotice_cases :
    (judgeNotice s = s) ∨
      (s.attn.toNotify.any id = true ∧ noticePlaceFree s.link = true ∧ judgeNotice s = queueFrame .notice s) := by
  unfold judgeNotice
  split
  · rename_i h
    simp only [Bool.and_eq_true] at h
    exact .inr ⟨h.1, h.2, rfl⟩
  · exact .inl rfl

/-- After judging, a subscribed RAISED kind has its NOTICE or ANNOUNCE waiting. -/
theorem judgeNotice_noticeOk : NoticeOk (judgeNotice s) := by
  intro h
  unfold judgeNotice at h ⊢
  split
  · simp [noticePlaceFree, OutFrame.isOwn]
  · rename_i hn
    rw [if_neg hn] at h
    rw [h] at hn
    simpa using hn

/-- Raising a kind does nothing when it is not QUIET; otherwise it makes it RAISED, and judges if it is subscribed. -/
theorem raise_cases (k : AttnKind) :
    (s.attn.stateOf k ≠ .quiet ∧ raise k s = s) ∨
      (s.attn.stateOf k = .quiet ∧ s.attn.isSubscribed k = false ∧ raise k s = setKind k .raised s) ∨
      (s.attn.stateOf k = .quiet ∧ s.attn.isSubscribed k = true ∧
        raise k s = judgeNotice (setKind k .raised s)) := by
  unfold raise
  split
  · rename_i h
    split
    · rename_i hs
      exact .inr (.inr ⟨h, hs, rfl⟩)
    · rename_i hs
      exact .inr (.inl ⟨h, by simpa using hs, rfl⟩)
  · rename_i h
    exact .inl ⟨h, rfl⟩

/-- Raising changes at most the attention states and the outbound queue. -/
theorem raise_eq (k : AttnKind) :
    raise k s =
      { s with
        attn := { s.attn with states := (raise k s).attn.states }
        link := { s.link with outbound := (raise k s).link.outbound } } := by
  rcases raise_cases s k with ⟨_, h⟩ | ⟨_, _, h⟩ | ⟨_, _, h⟩
  · rw [h]
  · rw [h]; rfl
  · rw [h]
    rcases judgeNotice_cases (setKind k .raised s) with h' | ⟨_, _, h'⟩ <;> rw [h'] <;> rfl

@[simp] theorem raise_run (k : AttnKind) : (raise k s).run = s.run := by rw [raise_eq]
@[simp] theorem raise_elapsed (k : AttnKind) : (raise k s).elapsed = s.elapsed := by rw [raise_eq]
@[simp] theorem raise_ts (k : AttnKind) : (raise k s).ts = s.ts := by rw [raise_eq]
@[simp] theorem raise_monA (k : AttnKind) : (raise k s).monA = s.monA := by rw [raise_eq]
@[simp] theorem raise_monB (k : AttnKind) : (raise k s).monB = s.monB := by rw [raise_eq]
@[simp] theorem raise_disc (k : AttnKind) : (raise k s).disc = s.disc := by rw [raise_eq]
@[simp] theorem raise_sched (k : AttnKind) : (raise k s).sched = s.sched := by rw [raise_eq]
@[simp] theorem raise_lines (k : AttnKind) : (raise k s).lines = s.lines := by rw [raise_eq]
@[simp] theorem raise_caps (k : AttnKind) : (raise k s).caps = s.caps := by rw [raise_eq]
@[simp] theorem raise_shown (k : AttnKind) : (raise k s).shown = s.shown := by rw [raise_eq]
@[simp] theorem raise_sampled (k : AttnKind) : (raise k s).sampled = s.sampled := by rw [raise_eq]
@[simp] theorem raise_journal (k : AttnKind) : (raise k s).journal = s.journal := by rw [raise_eq]
@[simp] theorem raise_choices (k : AttnKind) : (raise k s).choices = s.choices := by rw [raise_eq]
@[simp] theorem raise_pending (k : AttnKind) : (raise k s).pending = s.pending := by rw [raise_eq]
@[simp] theorem raise_subscribed (k : AttnKind) : (raise k s).attn.subscribed = s.attn.subscribed := by rw [raise_eq]
@[simp] theorem raise_requests (k : AttnKind) : (raise k s).link.requests = s.link.requests := by rw [raise_eq]
@[simp] theorem raise_cache (k : AttnKind) : (raise k s).link.cache = s.link.cache := by rw [raise_eq]
@[simp] theorem raise_partPending (k : AttnKind) : (raise k s).link.partPending = s.link.partPending := by
  rw [raise_eq]
@[simp] theorem raise_mon (k : AttnKind) (p : Path) : (raise k s).mon p = s.mon p := by cases p <;> simp [State.mon]

/-- What raising adds to the outbound queue: nothing, or one NOTICE into the free notice place (R156). -/
theorem raise_outbound (k : AttnKind) :
    (raise k s).link.outbound = s.link.outbound ∨
      (noticePlaceFree s.link = true ∧ (raise k s).link.outbound = s.link.outbound ++ [.notice]) := by
  rcases raise_cases s k with ⟨_, h⟩ | ⟨_, _, h⟩ | ⟨_, _, h⟩
  · exact .inl (by rw [h])
  · exact .inl (by rw [h]; rfl)
  · rcases judgeNotice_cases (setKind k .raised s) with h' | ⟨_, hf, h'⟩
    · exact .inl (by rw [h, h']; rfl)
    · exact .inr ⟨hf, by rw [h, h']; rfl⟩

/-! ## Appending -/

/-- A record is stored while there is a free place, and missed otherwise (R138, R141, R142). -/
theorem appendRecord_cases (body : RecordBody) :
    (s.journal.records.length < 256 ∧ appendRecord body s = storeRecord body s) ∨
      (256 ≤ s.journal.records.length ∧ appendRecord body s = missRecord s) := by
  unfold appendRecord
  split
  · rename_i h; exact .inl ⟨h, rfl⟩
  · rename_i h; exact .inr ⟨Nat.le_of_not_lt h, rfl⟩

/-- The journal after a record has been stored (R138). -/
@[simp] theorem storeRecord_journal (body : RecordBody) :
    (storeRecord body s).journal =
      { s.journal with
        records := s.journal.records ++ [⟨s.journal.seqCounter, s.ts.era, s.ts.now, body⟩]
        seqCounter := s.journal.seqCounter + 1 } := by
  unfold storeRecord
  dsimp only
  split <;> simp

/-- The journal after a record has been missed (R141, R142). -/
@[simp] theorem missRecord_journal :
    (missRecord s).journal =
      if s.journal.overrun then { s.journal with missed := satSucc 65535 s.journal.missed }
      else { s.journal with overrun := true, missed := 1, firstMissed := s.ts.now } := by
  unfold missRecord
  dsimp only
  split <;> simp

@[simp] theorem storeRecord_run (body : RecordBody) : (storeRecord body s).run = s.run := by
  unfold storeRecord; dsimp only; split <;> simp
@[simp] theorem storeRecord_elapsed (body : RecordBody) : (storeRecord body s).elapsed = s.elapsed := by
  unfold storeRecord; dsimp only; split <;> simp
@[simp] theorem storeRecord_ts (body : RecordBody) : (storeRecord body s).ts = s.ts := by
  unfold storeRecord; dsimp only; split <;> simp
@[simp] theorem storeRecord_monA (body : RecordBody) : (storeRecord body s).monA = s.monA := by
  unfold storeRecord; dsimp only; split <;> simp
@[simp] theorem storeRecord_monB (body : RecordBody) : (storeRecord body s).monB = s.monB := by
  unfold storeRecord; dsimp only; split <;> simp
@[simp] theorem storeRecord_disc (body : RecordBody) : (storeRecord body s).disc = s.disc := by
  unfold storeRecord; dsimp only; split <;> simp
@[simp] theorem storeRecord_sched (body : RecordBody) : (storeRecord body s).sched = s.sched := by
  unfold storeRecord; dsimp only; split <;> simp
@[simp] theorem storeRecord_lines (body : RecordBody) : (storeRecord body s).lines = s.lines := by
  unfold storeRecord; dsimp only; split <;> simp
@[simp] theorem storeRecord_caps (body : RecordBody) : (storeRecord body s).caps = s.caps := by
  unfold storeRecord; dsimp only; split <;> simp
@[simp] theorem storeRecord_shown (body : RecordBody) : (storeRecord body s).shown = s.shown := by
  unfold storeRecord; dsimp only; split <;> simp
@[simp] theorem storeRecord_sampled (body : RecordBody) : (storeRecord body s).sampled = s.sampled := by
  unfold storeRecord; dsimp only; split <;> simp
@[simp] theorem storeRecord_choices (body : RecordBody) : (storeRecord body s).choices = s.choices := by
  unfold storeRecord; dsimp only; split <;> simp
@[simp] theorem storeRecord_pending (body : RecordBody) : (storeRecord body s).pending = s.pending := by
  unfold storeRecord; dsimp only; split <;> simp
@[simp] theorem missRecord_run : (missRecord s).run = s.run := by
  unfold missRecord; dsimp only; split <;> simp
@[simp] theorem missRecord_elapsed : (missRecord s).elapsed = s.elapsed := by
  unfold missRecord; dsimp only; split <;> simp
@[simp] theorem missRecord_ts : (missRecord s).ts = s.ts := by
  unfold missRecord; dsimp only; split <;> simp
@[simp] theorem missRecord_monA : (missRecord s).monA = s.monA := by
  unfold missRecord; dsimp only; split <;> simp
@[simp] theorem missRecord_monB : (missRecord s).monB = s.monB := by
  unfold missRecord; dsimp only; split <;> simp
@[simp] theorem missRecord_disc : (missRecord s).disc = s.disc := by
  unfold missRecord; dsimp only; split <;> simp
@[simp] theorem missRecord_sched : (missRecord s).sched = s.sched := by
  unfold missRecord; dsimp only; split <;> simp
@[simp] theorem missRecord_lines : (missRecord s).lines = s.lines := by
  unfold missRecord; dsimp only; split <;> simp
@[simp] theorem missRecord_caps : (missRecord s).caps = s.caps := by
  unfold missRecord; dsimp only; split <;> simp
@[simp] theorem missRecord_shown : (missRecord s).shown = s.shown := by
  unfold missRecord; dsimp only; split <;> simp
@[simp] theorem missRecord_sampled : (missRecord s).sampled = s.sampled := by
  unfold missRecord; dsimp only; split <;> simp
@[simp] theorem missRecord_choices : (missRecord s).choices = s.choices := by
  unfold missRecord; dsimp only; split <;> simp
@[simp] theorem missRecord_pending : (missRecord s).pending = s.pending := by
  unfold missRecord; dsimp only; split <;> simp
@[simp] theorem appendRecord_run (body : RecordBody) : (appendRecord body s).run = s.run := by
  unfold appendRecord; split <;> simp
@[simp] theorem appendRecord_elapsed (body : RecordBody) : (appendRecord body s).elapsed = s.elapsed := by
  unfold appendRecord; split <;> simp
@[simp] theorem appendRecord_ts (body : RecordBody) : (appendRecord body s).ts = s.ts := by
  unfold appendRecord; split <;> simp
@[simp] theorem appendRecord_monA (body : RecordBody) : (appendRecord body s).monA = s.monA := by
  unfold appendRecord; split <;> simp
@[simp] theorem appendRecord_monB (body : RecordBody) : (appendRecord body s).monB = s.monB := by
  unfold appendRecord; split <;> simp
@[simp] theorem appendRecord_disc (body : RecordBody) : (appendRecord body s).disc = s.disc := by
  unfold appendRecord; split <;> simp
@[simp] theorem appendRecord_sched (body : RecordBody) : (appendRecord body s).sched = s.sched := by
  unfold appendRecord; split <;> simp
@[simp] theorem appendRecord_lines (body : RecordBody) : (appendRecord body s).lines = s.lines := by
  unfold appendRecord; split <;> simp
@[simp] theorem appendRecord_caps (body : RecordBody) : (appendRecord body s).caps = s.caps := by
  unfold appendRecord; split <;> simp
@[simp] theorem appendRecord_shown (body : RecordBody) : (appendRecord body s).shown = s.shown := by
  unfold appendRecord; split <;> simp
@[simp] theorem appendRecord_sampled (body : RecordBody) : (appendRecord body s).sampled = s.sampled := by
  unfold appendRecord; split <;> simp
@[simp] theorem appendRecord_choices (body : RecordBody) : (appendRecord body s).choices = s.choices := by
  unfold appendRecord; split <;> simp
@[simp] theorem appendRecord_pending (body : RecordBody) : (appendRecord body s).pending = s.pending := by
  unfold appendRecord; split <;> simp
@[simp] theorem appendRecord_mon (body : RecordBody) (p : Path) : (appendRecord body s).mon p = s.mon p := by
  cases p <;> simp [State.mon]

theorem half_sub_shift (c x : Half) : c - x = (c + 1) - (x + 1) := by
  apply BitVec.eq_of_toNat_eq
  simp only [BitVec.toNat_sub, BitVec.toNat_add]
  have := c.isLt; have := x.isLt
  simp
  omega

/-- A stored record keeps what always holds of the journal, while there is a free place. -/
theorem storeRecord_numbered (body : RecordBody) (h : numbered s.journal) : numbered (storeRecord body s).journal := by
  simp only [numbered, storeRecord_journal, List.map_append, List.length_append] at h ⊢
  rw [h, List.map_cons, List.map_nil, List.length_singleton, List.range_succ, List.map_append]
  congr 1
  · apply List.map_congr_left
    intro i hi
    have hi' := List.mem_range.mp hi
    have e : s.journal.records.length + 1 - i = (s.journal.records.length - i) + 1 := by omega
    rw [e, BitVec.ofNat_add]
    generalize BitVec.ofNat 16 (s.journal.records.length - i) = x
    exact half_sub_shift s.journal.seqCounter x
  · simp

/-- Appending a record keeps what always holds of the journal (R139 to R142). -/
theorem appendRecord_journalOk (body : RecordBody) (h : JournalOk s.journal) :
    JournalOk (appendRecord body s).journal := by
  rcases appendRecord_cases s body with ⟨hf, e⟩ | ⟨hf, e⟩
  · rw [e]
    have hn := storeRecord_numbered s body h.numbers
    have ho : s.journal.overrun = false := by
      cases ho : s.journal.overrun
      · rfl
      · have := (h.overrun ho).1; omega
    simp only [storeRecord_journal] at hn ⊢
    exact ⟨by simp only [List.length_append, List.length_singleton]; omega,
      by have := h.delivered; simp only [List.length_append]; omega, h.threshold, by simp [ho], h.calm, hn⟩
  · rw [e]
    have h256 : s.journal.records.length = 256 := Nat.le_antisymm h.fill hf
    simp only [missRecord_journal]
    split
    · rename_i ho
      obtain ⟨_, hm1, hm2⟩ := h.overrun ho
      exact ⟨h.fill, h.delivered, h.threshold,
        fun _ => ⟨h256, by dsimp only [satSucc]; split <;> omega, by dsimp only [satSucc]; split <;> omega⟩,
        fun hc => by simp [ho] at hc, h.numbers⟩
    · exact ⟨h.fill, h.delivered, h.threshold, fun _ => ⟨h256, by simp, by simp⟩, fun hc => by simp at hc, h.numbers⟩

end Sys2Proof.Machine
end

