-- ==== Sys2Proof/Laws/Discipline.lean ====
section
/-! SUPPORT. The selection: what an evaluation can choose, and what a new configuration can do. -/

namespace Sys2Proof.Machine

variable (s : State)

/-- A path selectable anew is eligible (R52). -/
theorem eligible_of_selectable (p : Path) (h : selectable s p = true) : eligible s p = true := by
  simp only [selectable, eligible, Bool.and_eq_true, decide_eq_true_eq, PathState.trusted] at h ⊢
  exact ⟨.inl h.1, h.2⟩

/-- A policy allows the path it prefers (Table 3.3). -/
theorem allows_preferred (policy : Policy) (q : Path) (h : policy.preferred = some q) : policy.allows q = true := by
  cases policy <;> simp_all [Policy.preferred, Policy.allows]

theorem keepEligible_eligible (p : Path) (h : keepEligible s = some p) : eligible s p = true :=
  (Option.filter_eq_some_iff.mp h).2

theorem leaveSuspect_eligible {sel : Option Path} (hs : ∀ p, sel = some p → eligible s p = true) (p : Path)
    (h : leaveSuspect s sel = some p) : eligible s p = true := by
  obtain ⟨q, hq, hp⟩ := Option.map_eq_some_iff.mp h
  split at hp
  · rename_i hc
    exact hp ▸ eligible_of_selectable s _ hc.2
  · exact hp ▸ hs q hq

theorem revert_eligible {sel : Option Path} (hs : ∀ p, sel = some p → eligible s p = true) (p : Path)
    (h : revert s sel = some p) : eligible s p = true := by
  obtain ⟨q, hq, hp⟩ := Option.map_eq_some_iff.mp h
  split at hp
  · rename_i r hr
    split at hp
    · rename_i hc
      subst hp
      simp [eligible, allows_preferred _ _ hr, PathState.trusted, hc.2]
    · exact hp ▸ hs q hq
  · exact hp ▸ hs q hq

theorem selectAnew_eligible {sel : Option Path} (hs : ∀ p, sel = some p → eligible s p = true) (p : Path)
    (h : selectAnew s sel = some p) : eligible s p = true := by
  unfold selectAnew at h
  split at h
  · exact hs p h
  · split at h
    · cases h
    · split at h
      · rename_i hq
        exact Option.some.inj h ▸ eligible_of_selectable s _ hq
      · split at h
        · rename_i hq
          exact Option.some.inj h ▸ eligible_of_selectable s _ hq
        · cases h

/-- The path an evaluation ends with is eligible (R52, R53). -/
theorem chosenPath_eligible (p : Path) (h : chosenPath s = some p) : eligible s p = true :=
  selectAnew_eligible s (revert_eligible s (leaveSuspect_eligible s (keepEligible_eligible s))) p h

/-- What an evaluation can do (R53): nothing, a gain, a switch, or a loss. -/
theorem evaluate_cases :
    (s.disc.selected = chosenPath s ∧ evaluate s = s) ∨
      (∃ q, s.disc.selected = none ∧ chosenPath s = some q ∧ evaluate s = gainPath q s) ∨
      (∃ p q, s.disc.selected = some p ∧ chosenPath s = some q ∧ p ≠ q ∧ evaluate s = switchPath q s) ∨
      (∃ p, s.disc.selected = some p ∧ chosenPath s = none ∧
        evaluate s = losePath (!(s.mon p).state.trusted) s) := by
  unfold evaluate
  cases hs : s.disc.selected with
  | none =>
    cases hc : chosenPath s with
    | none => exact .inl ⟨rfl, rfl⟩
    | some q => exact .inr (.inl ⟨q, rfl, rfl, rfl⟩)
  | some p =>
    cases hc : chosenPath s with
    | none => exact .inr (.inr (.inr ⟨p, rfl, rfl, rfl⟩))
    | some q =>
      by_cases h : p = q
      · exact .inl ⟨by rw [h], by simp [h]⟩
      · exact .inr (.inr (.inl ⟨p, q, rfl, rfl, h, by simp [h]⟩))

/-- What a new configuration can do (R51, R62): judge the timer and then evaluate, or, where an expiry meets a gain, the same
in either order after one free choice. -/
theorem applyConfig_cases (limit : Nat) :
    (gainMeetsExpiry limit s = false ∧ applyConfig limit s = evaluate (applyHoldoverLimit s)) ∨
      (gainMeetsExpiry limit s = true ∧
        (applyConfig limit s = evaluate (applyHoldoverLimit { s with choices := s.choices + 1 }) ∨
          applyConfig limit s = applyHoldoverLimit (evaluate { s with choices := s.choices + 1 }))) := by
  unfold applyConfig
  split
  · rename_i h
    refine .inr ⟨h, ?_⟩
    have chosen : (pick true [false] s).2 = { s with choices := s.choices + 1 } := rfl
    dsimp only
    split
    · exact .inl (by rw [chosen])
    · exact .inr (by rw [chosen])
  · rename_i h
    exact .inl ⟨by simpa using h, rfl⟩

end Sys2Proof.Machine
end

