-- ==== Sys2Proof/Laws/Internal.lean ====
section
/-! SUPPORT. What the part's inner operations can do to the rest of the part: they append records, raise kinds and queue a
NOTICE, and so they keep what always holds of the journal, the attention unit and the link. One lemma for each shared
operation. -/

namespace Sys2Proof.Machine

/-- `t` comes from `s` by an operation of the inner blocks: of the link at most one NOTICE has been queued, of the attention
unit at most states have been raised, and the journal stays whole. -/
structure Internal (s t : State) : Prop where
  run : t.run = s.run
  elapsed : t.elapsed = s.elapsed
  pending : t.pending = s.pending
  subscribed : t.attn.subscribed = s.attn.subscribed
  link : t.link = { s.link with outbound := t.link.outbound }
  outbound : t.link.outbound = s.link.outbound ∨
    (noticePlaceFree s.link = true ∧ t.link.outbound = s.link.outbound ++ [.notice])
  journal : JournalOk s.journal → JournalOk t.journal
  notice : NoticeOk s → NoticeOk t
  config : t.disc.config = s.disc.config
  shown : t.shown = s.shown
  sampled : t.sampled = s.sampled

namespace Internal

theorem refl (s : State) : Internal s s := ⟨rfl, rfl, rfl, rfl, rfl, .inl rfl, id, id, rfl, rfl, rfl⟩

theorem trans {s t u : State} (h : Internal s t) (k : Internal t u) : Internal s u where
  run := k.run.trans h.run
  elapsed := k.elapsed.trans h.elapsed
  pending := k.pending.trans h.pending
  subscribed := k.subscribed.trans h.subscribed
  link := by rw [k.link, h.link]
  outbound := by
    rcases h.outbound with ho | ⟨hf, ho⟩
    · rcases k.outbound with ko | ⟨kf, ko⟩
      · exact .inl (ko.trans ho)
      · refine .inr ⟨?_, by rw [ko, ho]⟩
        simpa [noticePlaceFree, ho] using kf
    · rcases k.outbound with ko | ⟨kf, _⟩
      · exact .inr ⟨hf, ko.trans ho⟩
      · simp [noticePlaceFree, ho, OutFrame.isOwn] at kf
  journal := k.journal ∘ h.journal
  notice := k.notice ∘ h.notice
  config := k.config.trans h.config
  shown := k.shown.trans h.shown
  sampled := k.sampled.trans h.sampled

/-- An update of the inner blocks that touches neither the journal, the attention unit, the link nor the configuration. -/
theorem of_eq {s t : State} (run : t.run = s.run) (elapsed : t.elapsed = s.elapsed) (pending : t.pending = s.pending)
    (journal : t.journal = s.journal) (attn : t.attn = s.attn) (link : t.link = s.link)
    (config : t.disc.config = s.disc.config) (shown : t.shown = s.shown) (sampled : t.sampled = s.sampled) :
    Internal s t :=
  ⟨run, elapsed, pending, by rw [attn], by rw [link], .inl (by rw [link]), by rw [journal]; exact id,
    by unfold NoticeOk; rw [attn, link]; exact id, config, shown, sampled⟩

end Internal

open Internal

variable (s : State)

theorem setTs_internal (t : Timescale) : Internal s (setTs t s) := of_eq rfl rfl rfl rfl rfl rfl rfl rfl rfl

theorem setDisc_internal (d : Discipline) (h : d.config = s.disc.config) : Internal s (setDisc d s) :=
  of_eq rfl rfl rfl rfl rfl rfl h rfl rfl

theorem setMon_internal (p : Path) (m : Monitor) : Internal s (setMon p m s) := by
  cases p <;> exact of_eq rfl rfl rfl rfl rfl rfl rfl rfl rfl

theorem setLine_internal (i : Fin 8) (l : OutLine) : Internal s (setLine i l s) := of_eq rfl rfl rfl rfl rfl rfl rfl rfl rfl

theorem setCap_internal (i : Fin 4) (c : CapLine) : Internal s (setCap i c s) := of_eq rfl rfl rfl rfl rfl rfl rfl rfl rfl

theorem setArmed_internal (l : List ArmedEntry) : Internal s (setArmed l s) := of_eq rfl rfl rfl rfl rfl rfl rfl rfl rfl

theorem setWaiting_internal (i : Fin 4) (l : List Entry) : Internal s (setWaiting i l s) :=
  of_eq rfl rfl rfl rfl rfl rfl rfl rfl rfl

/-! ## Raising and recording -/

/-- Some subscribed kind is RAISED exactly if its two flags say so. -/
theorem toNotify_any (a : Attention) :
    a.toNotify.any id = true ↔ ∃ k : AttnKind, a.isSubscribed k = true ∧ a.stateOf k = .raised := by
  have all : ∀ i : Fin 7, ∃ k : AttnKind, k.idx = i := by
    intro i
    match i with
    | 0 => exact ⟨.path, rfl⟩
    | 1 => exact ⟨.discipline, rfl⟩
    | 2 => exact ⟨.era, rfl⟩
    | 3 => exact ⟨.schedule, rfl⟩
    | 4 => exact ⟨.journalLevel, rfl⟩
    | 5 => exact ⟨.journalOverrun, rfl⟩
    | 6 => exact ⟨.link, rfl⟩
  have entry : ∀ i : Fin 7, a.toNotify[i] = (a.subscribed[i] && decide (a.states[i] = .raised)) := by
    intro i
    simp [Attention.toNotify, zipVec]
  rw [Vector.any_eq_true]
  constructor
  · rintro ⟨i, hi, h⟩
    obtain ⟨k, hk⟩ := all ⟨i, hi⟩
    have e := entry ⟨i, hi⟩
    simp only [Fin.getElem_fin] at e
    simp only [id, e, Bool.and_eq_true, decide_eq_true_eq] at h
    exact ⟨k, by simp only [Attention.isSubscribed, hk]; exact h.1, by simp only [Attention.stateOf, hk]; exact h.2⟩
  · rintro ⟨k, h1, h2⟩
    refine ⟨k.idx.val, k.idx.isLt, ?_⟩
    have e := entry k.idx
    simp only [Fin.getElem_fin] at e
    simp only [id, e, Bool.and_eq_true, decide_eq_true_eq]
    exact ⟨h1, h2⟩

/-- The state of a kind after one kind has been given a state. -/
theorem stateOf_setKind (k j : AttnKind) (v : AttnState) :
    (setKind k v s).attn.stateOf j = if k = j then v else s.attn.stateOf j := by
  cases k <;> cases j <;> simp [setKind, setKinds, Attention.stateOf, AttnKind.idx]

/-- The link after raising a kind: the outbound queue may have one NOTICE more (R154, R156). -/
theorem raise_link (k : AttnKind) :
    (raise k s).link = { s.link with outbound := queueAfterRaise k s.attn s.link.outbound } := by
  unfold queueAfterRaise
  rcases raise_cases s k with ⟨hq, h⟩ | ⟨hq, hs, h⟩ | ⟨hq, hs, h⟩ <;> rw [h]
  · simp [hq]
  · simp [hs, setKind, setKinds]
  · have some : (setKind k .raised s).attn.toNotify.any id = true := by
      rw [toNotify_any]
      exact ⟨k, hs, by simp [stateOf_setKind]⟩
    unfold judgeNotice
    rw [some]
    cases hf : s.link.outbound.any OutFrame.isOwn <;>
      simp [hq, hs, hf, noticePlaceFree, queueFrame, setKind, setKinds]

/-- The states of the kinds after raising one (R154). -/
theorem raise_stateOf (k j : AttnKind) :
    (raise k s).attn.stateOf j =
      if k = j ∧ s.attn.stateOf k = .quiet then .raised else s.attn.stateOf j := by
  rcases raise_cases s k with ⟨hq, h⟩ | ⟨hq, _, h⟩ | ⟨hq, _, h⟩ <;> rw [h]
  · simp [hq]
  · simp [hq, stateOf_setKind]
  · rcases judgeNotice_cases (setKind k .raised s) with h' | ⟨_, _, h'⟩ <;> rw [h'] <;>
      simp [hq, stateOf_setKind, queueFrame]

theorem raise_own (k : AttnKind) : (raise k s).attn.stateOf k = (s.attn.stateOf k).whenRaised := by
  rw [raise_stateOf, AttnState.whenRaised]
  simp

theorem raise_other {k j : AttnKind} (h : k ≠ j) : (raise k s).attn.stateOf j = s.attn.stateOf j := by
  rw [raise_stateOf, if_neg fun c => h c.1]

/-- A record that reaches the journal raises no kind but the journal's own two (R141, R148). -/
theorem appendRecord_stateOf (body : RecordBody) (k : AttnKind) (hl : k ≠ .journalLevel) (ho : k ≠ .journalOverrun) :
    (appendRecord body s).attn.stateOf k = s.attn.stateOf k := by
  unfold appendRecord
  split
  · unfold storeRecord
    dsimp only
    split
    · exact raise_other _ hl.symm
    · rfl
  · unfold missRecord
    dsimp only
    split
    · rfl
    · exact raise_other _ ho.symm

/-- A declared discontinuity raises ERA (R4). -/
theorem declareEra_stateOf (cause : EraCause) :
    (declareEra cause s).attn.stateOf .era = (s.attn.stateOf .era).whenRaised := by
  unfold declareEra
  dsimp only
  rw [raise_own, appendRecord_stateOf _ _ .era nofun nofun]
  rfl

/-- A change of the discipline state or of the selected path raises DISCIPLINE (R63). -/
theorem handOnDiscipline_stateOf (old : DiscState) :
    (handOnDiscipline old s).attn.stateOf .discipline = (s.attn.stateOf .discipline).whenRaised := by
  unfold handOnDiscipline
  rw [raise_own, appendRecord_stateOf _ _ .discipline nofun nofun]

/-- The link after a record has reached the journal (R141, R148, R156). -/
theorem appendRecord_link (body : RecordBody) :
    (appendRecord body s).link = { s.link with outbound := queueAfterRecord s } := by
  unfold queueAfterRecord appendRecord
  split
  · unfold storeRecord
    dsimp only
    by_cases c : s.journal.records.length + 1 = s.journal.threshold
    · rw [if_pos c, if_pos ⟨by omega, by omega⟩, raise_link]
    · rw [if_neg c, if_neg (by omega)]
  · unfold missRecord
    dsimp only
    split
    · rfl
    · rw [raise_link]

/-- Giving an unsubscribed kind a state, or a kind a state other than RAISED, leaves no more to notify. -/
theorem setKind_noticeOk (k : AttnKind) (v : AttnState) (h : s.attn.isSubscribed k = false ∨ v ≠ .raised)
    (ok : NoticeOk s) : NoticeOk (setKind k v s) := by
  intro hn
  apply ok
  rw [toNotify_any] at hn ⊢
  obtain ⟨j, hj, hr⟩ := hn
  rw [stateOf_setKind] at hr
  split at hr
  · rename_i e
    subst e
    rcases h with h | h
    · have : s.attn.isSubscribed k = true := hj
      rw [h] at this
      cases this
    · exact absurd hr h
  · exact ⟨j, hj, hr⟩

theorem raise_noticeOk (k : AttnKind) (ok : NoticeOk s) : NoticeOk (raise k s) := by
  rcases raise_cases s k with ⟨_, h⟩ | ⟨_, hs, h⟩ | ⟨_, _, h⟩ <;> rw [h]
  · exact ok
  · exact setKind_noticeOk s k _ (.inl hs) ok
  · exact judgeNotice_noticeOk _

theorem raise_internal (k : AttnKind) : Internal s (raise k s) :=
  ⟨by simp, by simp, by simp, by simp, by rw [raise_eq], raise_outbound s k, by rw [raise_journal]; exact id,
    raise_noticeOk s k, by simp, by simp, by simp⟩

theorem appendRecord_internal (body : RecordBody) : Internal s (appendRecord body s) := by
  have ok := appendRecord_journalOk s body
  have stored : ∀ r : State, r.link = s.link → r.attn = s.attn → r.run = s.run → r.elapsed = s.elapsed →
      r.pending = s.pending → r.disc = s.disc → r.shown = s.shown → r.sampled = s.sampled → (JournalOk s.journal → JournalOk r.journal) → Internal s r :=
    fun r hl ha hr he hp hd hsh hsa hj =>
      ⟨hr, he, hp, by rw [ha], by rw [hl], .inl (by rw [hl]), hj, by unfold NoticeOk; rw [ha, hl]; exact id, by rw [hd], hsh, hsa⟩
  rcases appendRecord_cases s body with ⟨_, e⟩ | ⟨_, e⟩ <;> rw [e] at ok ⊢
  · unfold storeRecord at ok ⊢
    dsimp only at ok ⊢
    split at ok <;> rename_i c
    · rw [if_pos c]
      refine Internal.trans ?_ (raise_internal _ _)
      exact stored _ rfl rfl rfl rfl rfl rfl rfl rfl (by simpa using ok)
    · rw [if_neg c]
      exact stored _ rfl rfl rfl rfl rfl rfl rfl rfl ok
  · unfold missRecord at ok ⊢
    dsimp only at ok ⊢
    split at ok <;> rename_i c
    · rw [if_pos c]
      exact stored _ rfl rfl rfl rfl rfl rfl rfl rfl ok
    · rw [if_neg c]
      refine Internal.trans ?_ (raise_internal _ _)
      exact stored _ rfl rfl rfl rfl rfl rfl rfl rfl (by simpa using ok)

/-! ## The schedule -/

theorem pick_internal {α : Type} (x : α) (xs : List α) : Internal s (pick x xs s).2 := by
  unfold pick
  split <;> exact of_eq rfl rfl rfl rfl rfl rfl rfl rfl rfl

theorem arm_internal (a : ArmedEntry) : Internal s (arm a s) := setArmed_internal s _

theorem disarm_internal (handle : Nat) : Internal s (disarm handle s) := setArmed_internal s _

theorem joinWaiting_internal (i : Fin 4) (e : Entry) : Internal s (joinWaiting i e s) := setWaiting_internal s _ _

theorem fireAction_internal (late : Bool) (e : Entry) : Internal s (fireAction late e s).2 := by
  unfold fireAction
  dsimp only
  split
  · exact (setLine_internal s _ _).trans (appendRecord_internal _ _)
  · exact setLine_internal s _ _

theorem reportRemoved_internal (o : RemovalOutcome) (e : Entry) : Internal s (reportRemoved o e s) := by
  unfold reportRemoved
  split
  · exact appendRecord_internal s _
  · exact Internal.refl s

theorem endBurst_internal (o : RemovalOutcome) (e : Entry) : Internal s (endBurst o e s) := by
  unfold endBurst
  split
  · exact joinWaiting_internal s _ _
  · exact reportRemoved_internal s _ _
  · exact reportRemoved_internal s _ _

theorem settle_internal (k : Nat) (o : RemovalOutcome) (a : ArmedEntry) : Internal s (settle k o a s) := by
  unfold settle
  split
  · exact endBurst_internal s _ _
  · split
    · exact arm_internal s _
    · split
      · exact arm_internal s _
      · exact endBurst_internal s _ _

theorem fireOrdinary_internal (a : ArmedEntry) : Internal s (fireOrdinary a s) :=
  ((disarm_internal s _).trans (fireAction_internal _ _ _)).trans (settle_internal _ _ _ _)

theorem endPulse_internal (i : Fin 8) : Internal s (endPulse i s) := setLine_internal s _ _

/-- What may come next on a line is inner work. -/
theorem nextOnLine_internal {t : State} {a : ArmedEntry} {act : State → State} (h : act ∈ nextOnLine t a) :
    Internal s (act s) := by
  unfold nextOnLine at h
  split at h
  · rcases List.mem_pair.mp h with rfl | rfl
    · exact fireOrdinary_internal s a
    · exact endPulse_internal s _
  · exact List.mem_singleton.mp h ▸ fireOrdinary_internal s a

/-- What is picked is one of the things there were to pick from. -/
theorem pick_mem {α : Type} (x : α) (xs : List α) : (pick x xs s).1 ∈ x :: xs := by
  unfold pick
  split
  · exact List.mem_singleton.mpr rfl
  · rename_i y ys
    have lt := Nat.mod_lt (Config.order s.choices) (show 0 < (x :: y :: ys).length by simp)
    rw [List.getD_eq_getElem _ _ lt]
    exact List.getElem_mem lt

theorem fireAll_internal (n : Nat) : Internal s (fireAll n s) := by
  induction n generalizing s with
  | zero => exact Internal.refl s
  | succ n ih =>
    unfold fireAll
    split
    · exact Internal.refl s
    · rename_i act rest e
      have mem := pick_mem s act rest
      rw [← e, List.mem_flatMap] at mem
      obtain ⟨a, _, ha⟩ := mem
      exact ((pick_internal s act rest).trans (nextOnLine_internal _ ha)).trans (ih _)

theorem fireReached_internal : Internal s (fireReached s) := fireAll_internal s _

theorem overtakeOne_internal (limit : Int) (a : ArmedEntry) : Internal s (overtakeOne limit a s) := by
  unfold overtakeOne
  dsimp only
  split
  · exact (((disarm_internal s _).trans (fireAction_internal _ _ _)).trans (raise_internal _ _)).trans
      (settle_internal _ _ _ _)
  · exact ((disarm_internal s _).trans (raise_internal _ _)).trans (settle_internal _ _ _ _)

theorem overtakeAll_internal (limit : Int) (l : List ArmedEntry) :
    Internal s (l.foldl (fun t a => overtakeOne limit a t) s) := by
  induction l generalizing s with
  | nil => exact Internal.refl s
  | cons a l ih => exact (overtakeOne_internal s limit a).trans (ih _)

theorem takeJump_internal (forward : Bool) (old new : TimeValue) : Internal s (takeJump forward old new s) := by
  unfold takeJump
  refine Internal.trans ?_ (setArmed_internal _ _)
  split
  · exact overtakeAll_internal s _ _
  · exact Internal.refl s

theorem lapWrapped_internal : Internal s (lapWrapped s) := setArmed_internal s _

/-! ## The timescale -/

theorem handOnDiscipline_internal (old : DiscState) : Internal s (handOnDiscipline old s) :=
  (appendRecord_internal s _).trans (raise_internal _ _)

/-- A discipline controller that keeps its configuration, handed on. -/
theorem discChanged_internal (d : Discipline) (h : d.config = s.disc.config) (old : DiscState) :
    Internal s (handOnDiscipline old (setDisc d s)) :=
  (setDisc_internal s d h).trans (handOnDiscipline_internal _ old)

theorem declareEra_internal (cause : EraCause) : Internal s (declareEra cause s) :=
  ((setTs_internal s _).trans (appendRecord_internal _ _)).trans (raise_internal _ _)

theorem advanceBy_internal (n : Nat) : Internal s (advanceBy n s) := by
  unfold advanceBy
  dsimp only
  split
  · exact setTs_internal s _
  · split
    · exact (setTs_internal s _).trans (lapWrapped_internal _)
    · exact setTs_internal s _

theorem tickTimescale_internal : Internal s (tickTimescale s) := by
  unfold tickTimescale
  split
  · exact setTs_internal s _
  · split
    · exact advanceBy_internal s _
    · exact (setTs_internal s _).trans (advanceBy_internal _ _)

theorem unappliedParts_internal : Internal s (unappliedParts s).2 := by
  unfold unappliedParts
  dsimp only
  split
  · exact Internal.refl s
  · exact of_eq rfl rfl rfl rfl rfl rfl rfl rfl rfl

theorem abandonFreeSlew_internal : Internal s (abandonFreeSlew s) := by
  unfold abandonFreeSlew
  dsimp only
  split
  · exact Internal.refl s
  · exact (unappliedParts_internal s).trans (setTs_internal _ _)

theorem leaveAnchoring_internal : Internal s (leaveAnchoring s) := setTs_internal s _

theorem stopAnchoring_internal : Internal s (stopAnchoring s) := by
  unfold stopAnchoring
  split
  · exact leaveAnchoring_internal s
  · exact Internal.refl s

theorem finishAmount_internal : Internal s (finishAmount s) := by
  unfold finishAmount
  split
  · exact setTs_internal s _
  · exact Internal.refl s

theorem takeSlewAmount_internal : Internal s (takeSlewAmount s) := by
  unfold takeSlewAmount
  dsimp only
  split <;> exact setTs_internal s _

theorem loadSeconds_internal (v : Nat) : Internal s (loadSeconds v s) := setTs_internal s _

theorem applyLoad_internal : Internal s (applyLoad s) := by
  unfold applyLoad
  split
  · exact Internal.refl s
  · dsimp only
    split
    · exact ((loadSeconds_internal s _).trans (declareEra_internal _ _)).trans (takeJump_internal _ _ _ _)
    · exact loadSeconds_internal s _

theorem carryBoundary_internal : Internal s (carryBoundary s) :=
  (((setTs_internal s _).trans (finishAmount_internal _)).trans (applyLoad_internal _)).trans
    (takeSlewAmount_internal _)

theorem moveShare_internal (steps : Nat) : Internal s (moveShare steps s) := setTs_internal s _

theorem correct_internal (distance : Int) : Internal s (correct distance s) := by
  unfold correct
  dsimp only
  have moved (t : State) (h : Internal s t) (n : Nat) : Internal s (fireReached (advanceBy n t)) :=
    (h.trans (advanceBy_internal t n)).trans (fireReached_internal _)
  split
  · split
    · exact (moved _ (setTs_internal s _) _).trans (carryBoundary_internal _)
    · exact moved _ (setTs_internal s _) _
  · split <;> exact (setTs_internal s _).trans (setTs_internal _ _)

theorem anchorStep_internal (p : Path) : Internal s (anchorStep p s) :=
  (moveShare_internal s _).trans (correct_internal _ _)

theorem enterLocked_internal : Internal s (enterLocked s) := by
  unfold enterLocked
  exact discChanged_internal s _ (by rfl) _

theorem beginAnchored_internal (phase remaining : Int) : Internal s (beginAnchored phase remaining s) :=
  setTs_internal s _

theorem acquireJump_internal : Internal s (acquireJump s) := by
  unfold acquireJump
  dsimp only
  refine Internal.trans (Internal.trans (Internal.trans ?_ (declareEra_internal _ _)) (enterLocked_internal _))
    (takeJump_internal _ _ _ _)
  have set : Internal s
      (setTs { (beginAnchored 0 0 s).ts with now := ⟨jumpSecond s, 0⟩, boundaryDue := false } (beginAnchored 0 0 s)) :=
    (beginAnchored_internal s 0 0).trans (setTs_internal _ _)
  split
  · exact set
  · exact set.trans (loadSeconds_internal _ _)

theorem completeAcquisition_internal : Internal s (completeAcquisition s) := by
  unfold completeAcquisition
  split
  · exact (beginAnchored_internal s _ _).trans (enterLocked_internal _)
  · exact acquireJump_internal s

theorem measureSwitch_internal : Internal s (measureSwitch s) :=
  (unappliedParts_internal s).trans (setTs_internal _ _)

/-- What a step handed to the timescale can do to the rest of the part (R37). -/
theorem handStep_internal (p : Path) (marked : Bool) : Internal s (handStep p marked s) := by
  unfold handStep
  split
  · split
    · split
      · exact measureSwitch_internal s
      · exact Internal.refl s
    · exact anchorStep_internal s p
  · split
    · exact completeAcquisition_internal s
    · exact Internal.refl s
  · exact Internal.refl s
  · exact Internal.refl s

/-! ## The discipline controller -/

theorem gainPath_internal (q : Path) : Internal s (gainPath q s) := by
  unfold gainPath
  exact discChanged_internal s _ (by rfl) _

theorem switchPath_internal (q : Path) : Internal s (switchPath q s) := by
  unfold switchPath
  dsimp only
  split
  · exact ((stopAnchoring_internal s).trans (setTs_internal _ _)).trans (discChanged_internal _ _ (by rfl) _)
  · exact discChanged_internal s _ (by rfl) _

theorem losePath_internal (byPath : Bool) : Internal s (losePath byPath s) := by
  unfold losePath
  have ended := (stopAnchoring_internal s).trans
    (setTs_internal _ { (stopAnchoring s).ts with switchPending := false })
  split
  · split <;> exact discChanged_internal s _ (by rfl) _
  · dsimp only
    split
    · exact ended.trans (discChanged_internal _ _ (by rfl) _)
    · exact ended.trans (discChanged_internal _ _ (by rfl) _)
  · exact discChanged_internal s _ (by rfl) _
  · exact discChanged_internal s _ (by rfl) _

/-- What an evaluation of the selection can do to the rest of the part (R53). -/
theorem evaluate_internal : Internal s (evaluate s) := by
  unfold evaluate
  split
  · exact Internal.refl s
  · exact gainPath_internal s _
  · split
    · exact Internal.refl s
    · exact switchPath_internal s _
  · exact losePath_internal s _

theorem expireHoldover_internal : Internal s (expireHoldover s) := by
  unfold expireHoldover
  split
  · exact discChanged_internal s _ (by rfl) _
  all_goals exact setDisc_internal s _ (by rfl)

theorem applyHoldoverLimit_internal : Internal s (applyHoldoverLimit s) := by
  unfold applyHoldoverLimit
  split
  · split
    · exact setDisc_internal s _ (by rfl)
    · split
      · exact expireHoldover_internal s
      · exact Internal.refl s
  · split
    · exact setDisc_internal s _ (by rfl)
    · exact Internal.refl s

theorem handCleanSecond_internal (ticks : Nat) : Internal s (handCleanSecond ticks s) := by
  unfold handCleanSecond
  split
  · exact setDisc_internal s _ (by rfl)
  · exact Internal.refl s

/-! ## The reference monitors -/

theorem handOnPath_internal (p : Path) (old : PathState) (fault : Option FaultKind) :
    Internal s (handOnPath p old fault s) :=
  ((appendRecord_internal s _).trans (raise_internal _ _)).trans (evaluate_internal _)

theorem changePath_internal (p : Path) (m : Monitor) (fault : Option FaultKind) :
    Internal s (changePath p m fault s) :=
  (setMon_internal s p m).trans (handOnPath_internal _ _ _ _)

theorem charge_internal (p : Path) (k : FaultKind) : Internal s (charge p k s) := by
  unfold charge
  dsimp only
  split
  · exact setMon_internal s _ _
  · split <;> exact changePath_internal s _ _ _
  · split
    · exact changePath_internal s _ _ _
    · exact setMon_internal s _ _
  all_goals exact Internal.refl s

theorem chargeUnless_internal (p : Path) (passes : Bool) (k : FaultKind) :
    Internal s (chargeUnless p passes k s) := by
  unfold chargeUnless
  split
  · exact Internal.refl s
  · exact charge_internal s p k

theorem countStep_internal (p : Path) : Internal s (countStep p s) := by
  unfold countStep
  dsimp only
  split
  · split
    · exact (setMon_internal s p _).trans (charge_internal _ _ _)
    · exact ((setMon_internal s p _).trans (charge_internal _ _ _)).trans (setMon_internal _ _ _)
  · exact setMon_internal s p _

theorem markChecks_internal (p : Path) (m : Monitor) : Internal s (markChecks p m s) :=
  ((chargeUnless_internal s p _ _).trans (chargeUnless_internal _ p _ _)).trans (chargeUnless_internal _ p _ _)

theorem cleanSecond_internal (p : Path) (ticks : Nat) : Internal s (cleanSecond p ticks s) := by
  unfold cleanSecond
  have handed : Internal s (if s.disc.selected = some p then handCleanSecond ticks s else s) := by
    split
    · exact handCleanSecond_internal s ticks
    · exact Internal.refl s
  generalize (if s.disc.selected = some p then handCleanSecond ticks s else s) = t at handed
  dsimp only
  split
  · split
    · exact handed.trans (changePath_internal _ _ _ _)
    · exact handed.trans (setMon_internal _ _ _)
  · split
    · exact handed.trans (changePath_internal _ _ _ _)
    · exact handed.trans (setMon_internal _ _ _)
  all_goals exact handed

theorem handToTimescale_internal (p : Path) (marked was faulted : Bool) :
    Internal s (handToTimescale p marked was faulted s) := by
  unfold handToTimescale
  split
  · exact handStep_internal s p marked
  · exact Internal.refl s

theorem markedStep_internal (p : Path) : Internal s (markedStep p s) := by
  unfold markedStep
  have checked := (setMon_internal s p { (s.mon p).accept s.elapsed with faultSinceMark := false }).trans
    (markChecks_internal _ p (s.mon p))
  dsimp only
  split
  · exact checked
  · refine Internal.trans ?_ (handToTimescale_internal _ _ _ _ _)
    split
    · exact (checked.trans (setMon_internal _ _ _)).trans (cleanSecond_internal _ _ _)
    · exact checked.trans (setMon_internal _ _ _)

theorem unmarkedStep_internal (p : Path) : Internal s (unmarkedStep p s) :=
  ((setMon_internal s p _).trans (countStep_internal _ p)).trans (handToTimescale_internal _ _ _ _ _)

theorem judgeStep_internal (p : Path) (marked : Bool) : Internal s (judgeStep p marked s) := by
  unfold judgeStep
  split
  · exact charge_internal s p _
  · split
    · exact markedStep_internal s p
    · exact unmarkedStep_internal s p

/-- What a step of a path can do to the rest of the part (R25). -/
theorem takeStep_internal (p : Path) (marked : Bool) : Internal s (takeStep p marked s) := by
  unfold takeStep
  split
  · exact Internal.refl s
  · exact Internal.refl s
  · exact changePath_internal s _ _ _
  all_goals exact judgeStep_internal s p marked

/-- What the expiry of a step window can do to the rest of the part (R31). -/
theorem expireWindow_internal (p : Path) : Internal s (expireWindow p s) := by
  unfold expireWindow
  dsimp only
  split
  · exact charge_internal s p _
  · exact ((charge_internal s p _).trans (setMon_internal _ _ _)).trans (countStep_internal _ p)

end Sys2Proof.Machine
end

