-- ==== Sys2Proof/Laws/Schedule.lean ====
section
/-! SUPPORT. The ordered lists of the schedule and the actions of the line driver. -/

namespace Sys2Proof.Machine

/-! ## The armed list -/

/-- Insertion adds the one entry and drops none. -/
theorem insertArmed_perm (a : ArmedEntry) (l : List ArmedEntry) : (insertArmed a l).Perm (a :: l) := by
  induction l with
  | nil => exact List.Perm.refl _
  | cons b rest ih =>
    unfold insertArmed
    split
    · exact List.Perm.refl _
    · exact ((List.perm_cons b).mpr ih).trans (List.Perm.swap a b rest)

theorem mem_insertArmed {a x : ArmedEntry} {l : List ArmedEntry} : x ∈ insertArmed a l ↔ x = a ∨ x ∈ l := by
  rw [(insertArmed_perm a l).mem_iff, List.mem_cons]

theorem length_insertArmed (a : ArmedEntry) (l : List ArmedEntry) : (insertArmed a l).length = l.length + 1 := by
  rw [(insertArmed_perm a l).length_eq, List.length_cons]

theorem before_iff (a b : ArmedEntry) :
    a.before b = true ↔
      a.due.lin < b.due.lin ∨ (a.due.lin = b.due.lin ∧ a.entry.admission < b.entry.admission) := by
  simp [ArmedEntry.before]

theorem not_before_iff (a b : ArmedEntry) :
    a.before b = false ↔
      b.due.lin < a.due.lin ∨ (b.due.lin = a.due.lin ∧ b.entry.admission ≤ a.entry.admission) := by
  rw [← Bool.not_eq_true, before_iff]
  omega

/-- Insertion keeps the order of the armed list (R72). -/
theorem insertArmed_inOrder (a : ArmedEntry) (l : List ArmedEntry) (h : armedInOrder l) :
    armedInOrder (insertArmed a l) := by
  induction l with
  | nil => exact List.pairwise_singleton _ _
  | cons b rest ih =>
    obtain ⟨hb, hr⟩ := List.pairwise_cons.mp h
    unfold insertArmed
    split
    · rename_i hab
      refine List.pairwise_cons.mpr ⟨fun y hy => ?_, h⟩
      rw [not_before_iff]
      rw [before_iff] at hab
      rcases List.mem_cons.mp hy with rfl | hy
      · omega
      · have := (not_before_iff y b).mp (hb y hy)
        omega
    · rename_i hab
      refine List.pairwise_cons.mpr ⟨fun y hy => ?_, ih hr⟩
      rcases mem_insertArmed.mp hy with rfl | hy
      · simpa using hab
      · exact hb y hy

/-- Changing only how many wraps an entry awaits keeps the order. -/
theorem map_lap_inOrder (f : ArmedEntry → ArmedEntry) (l : List ArmedEntry)
    (hf : ∀ a, (f a).due = a.due ∧ (f a).entry = a.entry) (h : armedInOrder l) : armedInOrder (l.map f) := by
  unfold armedInOrder at h ⊢
  rw [List.pairwise_map]
  refine h.imp fun {a b} hab => ?_
  simpa [ArmedEntry.before, hf a, hf b] using hab

/-- Leaving the armed list keeps the order. -/
theorem filter_inOrder (p : ArmedEntry → Bool) (l : List ArmedEntry) (h : armedInOrder l) :
    armedInOrder (l.filter p) := List.Pairwise.filter p h

/-- A reached entry that may be fired now stands in the armed list and is reached (R92). -/
theorem mem_firable {now : TimeValue} {a : ArmedEntry} :
    ∀ {l : List ArmedEntry} {seen : List (Fin 8)}, a ∈ firable now seen l → a ∈ l ∧ a.reached now = true
  | [], _, h => by simp [firable] at h
  | b :: rest, seen, h => by
    unfold firable at h
    split at h
    · rename_i hb
      rcases List.mem_cons.mp h with rfl | h
      · exact ⟨List.mem_cons_self, (Bool.and_eq_true _ _ ▸ hb).1⟩
      · exact ⟨List.mem_cons_of_mem _ (mem_firable h).1, (mem_firable h).2⟩
    · exact ⟨List.mem_cons_of_mem _ (mem_firable h).1, (mem_firable h).2⟩

/-- The entries that may be fired now: the reached ones with no reached one of their line ahead of them (R92, R100); `seen`
holds the lines that are taken already. -/
theorem mem_firable_iff {now : TimeValue} {a : ArmedEntry} :
    ∀ {l : List ArmedEntry} {seen : List (Fin 8)}, a ∈ firable now seen l ↔
      ∃ ahead behind, l = ahead ++ a :: behind ∧ a.reached now = true ∧ a.entry.desc.line ∉ seen ∧
        ∀ b ∈ ahead, b.reached now = true → b.entry.desc.line ≠ a.entry.desc.line
  | [], _ => by simp [firable]
  | b :: rest, seen => by
    unfold firable
    split
    · rename_i hb
      simp only [Bool.and_eq_true, Bool.not_eq_true', List.contains_eq_mem, decide_eq_false_iff_not] at hb
      rw [List.mem_cons, mem_firable_iff]
      constructor
      · rintro (rfl | ⟨ahead, behind, rfl, hr, hs, hd⟩)
        · exact ⟨[], rest, rfl, hb.1, hb.2, by simp⟩
        · rw [List.mem_cons, not_or] at hs
          refine ⟨b :: ahead, behind, rfl, hr, hs.2, fun c hc hcr => ?_⟩
          rcases List.mem_cons.mp hc with rfl | hc
          · exact fun e => hs.1 e.symm
          · exact hd c hc hcr
      · rintro ⟨ahead, behind, e, hr, hs, hd⟩
        cases ahead with
        | nil => exact .inl (List.cons.inj e).1.symm
        | cons c ahead =>
          obtain ⟨rfl, rfl⟩ := List.cons.inj e
          refine .inr ⟨ahead, behind, rfl, hr, ?_, fun d hd' => hd d (List.mem_cons_of_mem _ hd')⟩
          rw [List.mem_cons, not_or]
          exact ⟨fun e => hd b List.mem_cons_self hb.1 e.symm, hs⟩
    · rename_i hb
      rw [mem_firable_iff]
      constructor
      · rintro ⟨ahead, behind, rfl, hr, hs, hd⟩
        refine ⟨b :: ahead, behind, rfl, hr, hs, fun c hc hcr => ?_⟩
        rcases List.mem_cons.mp hc with rfl | hc
        · intro e
          refine hb ?_
          simp [hcr, e, hs]
        · exact hd c hc hcr
      · rintro ⟨ahead, behind, e, hr, hs, hd⟩
        cases ahead with
        | nil =>
          obtain ⟨rfl, -⟩ := List.cons.inj e
          exact absurd (by simp [hr, hs]) hb
        | cons c ahead =>
          obtain ⟨rfl, rfl⟩ := List.cons.inj e
          exact ⟨ahead, behind, rfl, hr, hs, fun d hd' => hd d (List.mem_cons_of_mem _ hd')⟩

/-! ## Actions -/

/-- An action leaves the mode and the idle level of its line (R111). -/
@[simp] theorem applyAction_mode (a : Action) (l : OutLine) : (applyAction a l).1.mode = l.mode := by cases a <;> rfl
@[simp] theorem applyAction_idle (a : Action) (l : OutLine) : (applyAction a l).1.idle = l.idle := by cases a <;> rfl

/-- After an action a trailing edge is pending exactly if the action was a PULSE, and then the line holds its non-idle
level (R113 to R115). -/
theorem applyAction_trailing (a : Action) (l : OutLine) (h : (applyAction a l).1.trailing.isSome = true) :
    ∃ w, a = .pulse w ∧ (applyAction a l).1 = { l with level := flipLevel l.idle, trailing := some w } := by
  cases a with
  | rise => simp [applyAction] at h
  | fall => simp [applyAction] at h
  | toggle => simp [applyAction] at h
  | pulse w => exact ⟨w, rfl, rfl⟩

/-- The cut flag is set exactly when a RISE, FALL or TOGGLE meets a pending trailing edge (R94, R115). -/
theorem applyAction_cut (a : Action) (l : OutLine) :
    (applyAction a l).2 = (l.trailing.isSome && (match a with | .pulse _ => false | _ => true)) := by
  cases a <;> simp [applyAction]

end Sys2Proof.Machine
end

