-- ==== Sys2Proof/Laws/Time.lean ====
section
/-! SUPPORT. The arithmetic of time values and of the bytes that carry them. -/

namespace Sys2Proof.Machine

/-- Folding lands in the range of R13 and R18. -/
theorem foldTicks_range (z : Int) : -62499999 ≤ foldTicks z ∧ foldTicks z ≤ 62500000 := by
  unfold foldTicks
  omega

/-- Folding removes whole seconds. -/
theorem foldTicks_congr (z : Int) : (foldTicks z - z) % 125000000 = 0 := by
  unfold foldTicks
  omega

/-- A value in the range is its own fold. -/
theorem foldTicks_of_range (z : Int) (h : -62499999 ≤ z) (h' : z ≤ 62500000) : foldTicks z = z := by
  unfold foldTicks
  omega

/-- A limited amount lies within its limit. -/
theorem clampMag_le (z : Int) (b : Nat) : (clampMag z b).natAbs ≤ b := by
  unfold clampMag
  omega

/-- A count of ticks names a point of the timescale. -/
theorem ofLin_valid (n : Nat) : (TimeValue.ofLin n).Valid := by
  unfold TimeValue.ofLin TimeValue.Valid
  simp only [Config.ticksPerSecond, Config.secondsModulus]
  exact ⟨Nat.mod_lt _ (by decide), Nat.mod_lt _ (by decide)⟩

/-- A point of the timescale is the point at its count of ticks. -/
theorem ofLin_lin (t : TimeValue) (h : t.Valid) : TimeValue.ofLin t.lin = t := by
  obtain ⟨hs, ht⟩ := h
  cases t with
  | mk sec tick =>
    simp only [TimeValue.ofLin, TimeValue.lin, Config.ticksPerSecond, Config.secondsModulus, TimeValue.mk.injEq] at *
    constructor <;> omega

/-- A count saturates at its limit and otherwise increases by one (R36, R70, R142, R169). -/
theorem satSucc_le (limit n : Nat) (h : n ≤ limit) : satSucc limit n ≤ limit := by
  unfold satSucc
  split <;> omega

/-- The adjustments yet to be made lie between none and the whole count (R12). -/
theorem FreeRun.toCome_range (r : FreeRun) :
    (0 ≤ r.slew - r.freq → 0 ≤ r.toCome ∧ r.toCome ≤ r.slew - r.freq) ∧
      (r.slew - r.freq ≤ 0 → r.slew - r.freq ≤ r.toCome ∧ r.toCome ≤ 0) := by
  unfold FreeRun.toCome FreeRun.count
  split <;> omega

/-- The bounds of what is left of the slew leave room for a value (R14). -/
theorem FreeRun.leftBounds_le (r : FreeRun) (tick : Nat) (ended : Bool) :
    (r.leftBounds tick ended).1 ≤ (r.leftBounds tick ended).2 := by
  have h := r.toCome_range
  unfold FreeRun.leftBounds
  dsimp only
  split
  · simp only
    omega
  · split
    · exact Int.le_refl _
    · simp only
      omega

/-- What is left of the slew and of the frequency correction in the middle of a free-running second (R12, R14). -/
theorem unappliedParts_split (s : State) : SplitOf s.ts (unappliedParts s).1.1 (unappliedParts s).1.2 := by
  have room := s.ts.freeRun.leftBounds_le s.ts.now.tick s.ts.boundaryDue
  have total := s.ts.freeRun.toCome_range
  have within : (s.ts.freeRun.leftBounds s.ts.now.tick s.ts.boundaryDue).1 ≤ (unappliedParts s).1.1 ∧
      (unappliedParts s).1.1 ≤ (s.ts.freeRun.leftBounds s.ts.now.tick s.ts.boundaryDue).2 ∧
      (unappliedParts s).1.2 = (unappliedParts s).1.1 - s.ts.freeRun.toCome := by
    unfold unappliedParts
    dsimp only
    split
    · exact ⟨Int.le_refl _, room, rfl⟩
    · exact ⟨Int.le_max_left _ _, Int.max_le.mpr ⟨room, Int.min_le_left _ _⟩, rfl⟩
  have whole : s.ts.freeRun.done = 0 → s.ts.freeRun.toCome = s.ts.freeRun.slew - s.ts.freeRun.freq := by
    intro h
    unfold FreeRun.toCome FreeRun.count
    rw [h]
    split <;> omega
  have same : s.ts.freeRun.toCome =
      if 0 ≤ s.ts.freeRun.slew - s.ts.freeRun.freq then
        max 0 (s.ts.freeRun.slew - s.ts.freeRun.freq - s.ts.freeRun.done)
      else min 0 (s.ts.freeRun.slew - s.ts.freeRun.freq + s.ts.freeRun.done) := rfl
  unfold SplitOf
  dsimp only
  rw [← same]
  clear same
  generalize (unappliedParts s).1.1 = left at *
  generalize (unappliedParts s).1.2 = rest at *
  unfold FreeRun.leftBounds at within room
  generalize s.ts.freeRun.toCome = toCome at *
  cases ended : s.ts.boundaryDue
  · by_cases start : s.ts.freeRun.done = 0 ∧ s.ts.now.tick = s.ts.freeRun.base
    · simp only [ended, start, and_self, if_true, Bool.false_eq_true, if_false] at within
      have := whole start.1
      refine ⟨?_, ?_, ?_, ?_, ?_, ?_, ?_⟩ <;> first | omega | simp
    · simp only [ended, start, Bool.false_eq_true, if_false] at within
      refine ⟨?_, ?_, ?_, ?_, ?_, fun _ h h' => absurd ⟨h, h'⟩ start, ?_⟩ <;> first | omega | simp
  · simp only [ended, if_true] at within
    refine ⟨?_, ?_, ?_, ?_, ?_, ?_, ?_⟩ <;> first | omega | simp

/-- A step of the estimate stays between where it was and the measurement (R64). -/
theorem moveEstimate_bound (e m : Int) (he : e.natAbs ≤ 100000) (hm : m.natAbs ≤ 100000) :
    (moveEstimate e m).natAbs ≤ 100000 := by
  unfold moveEstimate
  have h : (m - e).tdiv 8 = if 0 ≤ m - e then (m - e) / 8 else -((-(m - e)) / 8) := by
    split
    · exact Int.tdiv_eq_ediv_of_nonneg (by omega)
    · rw [← Int.tdiv_eq_ediv_of_nonneg (by omega), Int.neg_tdiv, Int.neg_neg]
  rw [h]
  split <;> omega

end Sys2Proof.Machine
end

