-- ==== Sys2Proof/Laws/Firing.lean ====
section
/-! SUPPORT. What the operations of the schedule leave alone, and that the firings an anchoring correction brings leave no
entry reached. -/

namespace Sys2Proof.Machine

/-! ## What a schedule operation leaves alone -/

/-- `t` comes from `s` by an operation of the schedule: only lists, lines, records, raised kinds and choices differ. -/
structure SchedulePart (s t : State) : Prop where
  ts : t.ts = s.ts
  disc : t.disc = s.disc
  mon : ∀ p, t.mon p = s.mon p
  caps : t.caps = s.caps
  admissions : t.sched.admissions = s.sched.admissions
  kinds : ∀ k, k ≠ .schedule → k ≠ .journalLevel → k ≠ .journalOverrun → t.attn.stateOf k = s.attn.stateOf k

namespace SchedulePart

theorem refl (s : State) : SchedulePart s s := ⟨rfl, rfl, fun _ => rfl, rfl, rfl, fun _ _ _ _ => rfl⟩

theorem trans {s t u : State} (h : SchedulePart s t) (k : SchedulePart t u) : SchedulePart s u :=
  ⟨k.ts.trans h.ts, k.disc.trans h.disc, fun p => (k.mon p).trans (h.mon p), k.caps.trans h.caps,
    k.admissions.trans h.admissions, fun j hs hl ho => (k.kinds j hs hl ho).trans (h.kinds j hs hl ho)⟩

end SchedulePart

open SchedulePart

variable (s : State)

theorem appendRecord_schedulePart (body : RecordBody) : SchedulePart s (appendRecord body s) := by
  refine ⟨by simp, by simp, ?_, by simp, by simp, fun k _ hl ho => appendRecord_stateOf s body k hl ho⟩
  intro p; cases p <;> simp [State.mon]

theorem raise_schedulePart : SchedulePart s (raise .schedule s) := by
  refine ⟨by simp, by simp, ?_, by simp, by simp, fun k hk _ _ => raise_other s (Ne.symm hk)⟩
  intro p; cases p <;> simp [State.mon]

theorem arm_schedulePart (a : ArmedEntry) : SchedulePart s (arm a s) :=
  ⟨rfl, rfl, fun p => by cases p <;> rfl, rfl, rfl, fun _ _ _ _ => rfl⟩
theorem disarm_schedulePart (h : Nat) : SchedulePart s (disarm h s) :=
  ⟨rfl, rfl, fun p => by cases p <;> rfl, rfl, rfl, fun _ _ _ _ => rfl⟩
theorem setLine_schedulePart (i : Fin 8) (l : OutLine) : SchedulePart s (setLine i l s) :=
  ⟨rfl, rfl, fun p => by cases p <;> rfl, rfl, rfl, fun _ _ _ _ => rfl⟩
theorem joinWaiting_schedulePart (i : Fin 4) (e : Entry) : SchedulePart s (joinWaiting i e s) :=
  ⟨rfl, rfl, fun p => by cases p <;> rfl, rfl, rfl, fun _ _ _ _ => rfl⟩

theorem fireAction_schedulePart (late : Bool) (e : Entry) : SchedulePart s (fireAction late e s).2 := by
  unfold fireAction
  dsimp only
  split
  · exact (setLine_schedulePart s _ _).trans (appendRecord_schedulePart _ _)
  · exact setLine_schedulePart s _ _

theorem reportRemoved_schedulePart (o : RemovalOutcome) (e : Entry) : SchedulePart s (reportRemoved o e s) := by
  unfold reportRemoved
  split
  · exact appendRecord_schedulePart s _
  · exact refl s

theorem endBurst_schedulePart (o : RemovalOutcome) (e : Entry) : SchedulePart s (endBurst o e s) := by
  unfold endBurst
  split
  · exact joinWaiting_schedulePart s _ _
  · exact reportRemoved_schedulePart s _ _
  · exact reportRemoved_schedulePart s _ _

theorem settle_schedulePart (k : Nat) (o : RemovalOutcome) (a : ArmedEntry) : SchedulePart s (settle k o a s) := by
  unfold settle
  split
  · exact endBurst_schedulePart s _ _
  · split
    · exact arm_schedulePart s _
    · split
      · exact arm_schedulePart s _
      · exact endBurst_schedulePart s _ _

theorem fireOrdinary_schedulePart (a : ArmedEntry) : SchedulePart s (fireOrdinary a s) :=
  ((disarm_schedulePart s _).trans (fireAction_schedulePart _ _ _)).trans (settle_schedulePart _ _ _ _)

theorem endPulse_schedulePart (i : Fin 8) : SchedulePart s (endPulse i s) := setLine_schedulePart s _ _

theorem overtakeOne_schedulePart (limit : Int) (a : ArmedEntry) : SchedulePart s (overtakeOne limit a s) := by
  unfold overtakeOne
  split
  · exact ((disarm_schedulePart s _).trans (fireAction_schedulePart _ _ _)).trans
      ((raise_schedulePart _).trans (settle_schedulePart _ _ _ _))
  · exact (disarm_schedulePart s _).trans ((raise_schedulePart _).trans (settle_schedulePart _ _ _ _))

/-- A jump leaves the time and everything outside the schedule and the lines (R101). -/
theorem takeJump_schedulePart (forward : Bool) (old new : TimeValue) : SchedulePart s (takeJump forward old new s) := by
  have all : ∀ (limit : Int) (l : List ArmedEntry) (t : State),
      SchedulePart t (l.foldl (fun t a => overtakeOne limit a t) t) := by
    intro limit l
    induction l with
    | nil => exact refl
    | cons a rest ih => exact fun t => (overtakeOne_schedulePart t limit a).trans (ih _)
  have lap : ∀ t : State, SchedulePart t (setArmed (t.sched.armed.map (ArmedEntry.afterJump new)) t) :=
    fun t => ⟨rfl, rfl, fun p => by cases p <;> rfl, rfl, rfl, fun _ _ _ _ => rfl⟩
  unfold takeJump
  dsimp only
  split
  · exact (all _ _ s).trans (lap _)
  · exact lap s

theorem pick_schedulePart {α : Type} (x : α) (xs : List α) : SchedulePart s (pick x xs s).2 := by
  unfold pick
  cases xs
  · exact refl s
  · exact ⟨rfl, rfl, fun p => by cases p <;> rfl, rfl, rfl, fun _ _ _ _ => rfl⟩

/-- What may come next on a line is a firing, or the expiry of a trailing edge that has run out (R117). -/
theorem nextOnLine_cases {t : State} {a : ArmedEntry} {act : State → State} (h : act ∈ nextOnLine t a) :
    act = fireOrdinary a ∨ (trailingDue a.entry.desc.line t = true ∧ act = endPulse a.entry.desc.line) := by
  unfold nextOnLine at h
  split at h
  · rename_i hd
    rcases List.mem_cons.mp h with h | h
    · exact .inl h
    · exact .inr ⟨hd, List.mem_singleton.mp h⟩
  · exact .inl (List.mem_singleton.mp h)

theorem fireAll_schedulePart (n : Nat) : SchedulePart s (fireAll n s) := by
  induction n generalizing s with
  | zero => exact refl s
  | succ n ih =>
    unfold fireAll
    split
    · exact refl s
    · rename_i act rest hl
      refine (pick_schedulePart s act rest).trans (SchedulePart.trans ?_ (ih _))
      have hm := pick_mem s act rest
      rw [← hl] at hm
      obtain ⟨a, _, ha⟩ := List.mem_flatMap.mp hm
      rcases nextOnLine_cases ha with e | ⟨_, e⟩ <;> rw [e]
      · exact fireOrdinary_schedulePart _ _
      · exact endPulse_schedulePart _ _

theorem fireReached_schedulePart : SchedulePart s (fireReached s) := fireAll_schedulePart s _


/-! ## How many firings a correction can bring -/

/-- Moving a due time on moves its place on the round of the current seconds count by as much (R93, R96). -/
theorem advance_lin (a : ArmedEntry) (ticks : Nat) : (a.advance ticks).lin = a.lin + ticks := by
  have whole : ∀ x : Nat, (TimeValue.ofLin x).lin + x / wrapLin * wrapLin = x := by
    intro x
    simp only [TimeValue.ofLin, TimeValue.lin, wrapLin, Config.secondsModulus, Config.ticksPerSecond]
    omega
  have e := whole (a.due.lin + ticks)
  simp only [ArmedEntry.lin, ArmedEntry.advance]
  rw [add_mul]
  generalize (TimeValue.ofLin (a.due.lin + ticks)).lin = x at *
  generalize (a.due.lin + ticks) / wrapLin = y at *
  have e' : (x : Int) + y * wrapLin = a.due.lin + ticks := by exact_mod_cast e
  omega

/-- An entry's firings that the current time has come to (R99). -/
def ArmedEntry.weight (now : TimeValue) (a : ArmedEntry) : Nat :=
  if a.reached now then a.dueCount now.lin else 0

/-- All the firings that the current time has come to. -/
def State.weight (s : State) : Nat := (s.sched.armed.map (ArmedEntry.weight s.ts.now)).sum

/-- The lines on which a trailing edge has run out. -/
def State.pulsesOver (s : State) : Nat := (Finset.univ.filter fun i : Fin 8 => trailingDue i s = true).card

/-- Every armed entry has a width and a period that admission accepts (R79). -/
def Paced (s : State) : Prop :=
  ∀ a ∈ s.sched.armed,
    (∀ q, a.entry.desc.rep = some q → 1 ≤ q.period) ∧ (∀ w, a.entry.desc.action = .pulse w → 1 ≤ w)

theorem weight_pos {now : TimeValue} {a : ArmedEntry} (h : a.reached now = true) : 1 ≤ a.weight now := by
  simp only [ArmedEntry.weight, h, if_true, ArmedEntry.dueCount]
  split <;> omega

theorem firable_nil {now : TimeValue} {l : List ArmedEntry} (h : firable now [] l = []) :
    ∀ a ∈ l, a.reached now = false := by
  induction l with
  | nil => simp
  | cons b rest ih =>
    unfold firable at h
    split at h
    · cases h
    · rename_i hb
      intro a ha
      rcases List.mem_cons.mp ha with rfl | ha
      · simpa using hb
      · exact ih h a ha

theorem sum_filter_le (f : ArmedEntry → Nat) (p : ArmedEntry → Bool) (l : List ArmedEntry) (a : ArmedEntry)
    (ha : a ∈ l) (hp : p a = false) : ((l.filter p).map f).sum + f a ≤ (l.map f).sum := by
  have le : ∀ l : List ArmedEntry, ((l.filter p).map f).sum ≤ (l.map f).sum := by
    intro l
    induction l with
    | nil => simp
    | cons b rest ih =>
      rw [List.filter_cons]
      split <;> simp only [List.map_cons, List.sum_cons] <;> omega
  induction l with
  | nil => cases ha
  | cons b rest ih =>
    rw [List.filter_cons]
    rcases List.mem_cons.mp ha with rfl | ha
    · rw [hp]
      have := le rest
      simp only [List.map_cons, List.sum_cons, Bool.false_eq_true, if_false]
      omega
    · have := ih ha
      split <;> simp only [List.map_cons, List.sum_cons] <;> omega

/-- Moving an entry on leaves the output lines. -/
theorem settle_lines (k : Nat) (o : RemovalOutcome) (a : ArmedEntry) : (settle k o a s).lines = s.lines := by
  have ended : ∀ e, (endBurst o e s).lines = s.lines := by
    intro e
    have reported : (reportRemoved o e s).lines = s.lines := by unfold reportRemoved; split <;> simp
    unfold endBurst
    split
    · rfl
    · exact reported
    · exact reported
  unfold settle
  split
  · exact ended _
  · split
    · rfl
    · split
      · rfl
      · exact ended _

/-- The armed list after an entry has moved on by one firing: the entry one period later, or the list as it was. -/
theorem settle_one_armed (o : RemovalOutcome) (a : ArmedEntry) :
    (settle 1 o a s).sched.armed = s.sched.armed ∨
      ∃ r b, a.entry.desc.rep = some r ∧ b.entry.desc = a.entry.desc ∧ b.lin = a.lin + r.period ∧
        (settle 1 o a s).sched.armed = insertArmed b s.sched.armed := by
  have ended : ∀ e, (endBurst o e s).sched.armed = s.sched.armed := by
    intro e
    unfold endBurst reportRemoved
    split <;> first | rfl | (split <;> simp)
  have moved : ∀ (r : RepeatSpec) (e : Entry), a.entry.desc.rep = some r → e.desc = a.entry.desc →
      ∃ q b, a.entry.desc.rep = some q ∧ b.entry.desc = a.entry.desc ∧ b.lin = a.lin + q.period ∧
        (arm (ArmedEntry.advance { a with entry := e } (1 * r.period)) s).sched.armed
          = insertArmed b s.sched.armed := by
    intro r e hr he
    refine ⟨r, ArmedEntry.advance { a with entry := e } (1 * r.period), hr, he, ?_, rfl⟩
    have h := advance_lin { a with entry := e } (1 * r.period)
    rw [h, one_mul]
    simp only [ArmedEntry.lin]
  unfold settle
  split
  · exact .inl (ended _)
  · rename_i r hr
    split
    · exact .inr (moved r a.entry hr rfl)
    · split
      · exact .inr (moved r _ hr rfl)
      · exact .inl (ended _)

/-- A firing uses up one of the firings that the current time has come to, and starts no trailing edge that has already
run out. -/
theorem fireOrdinary_weight (a : ArmedEntry) (ok : Paced s) (ha : a ∈ s.sched.armed) (hr : a.reached s.ts.now = true) :
    (fireOrdinary a s).weight + 1 ≤ s.weight ∧ (fireOrdinary a s).pulsesOver ≤ s.pulsesOver ∧
      Paced (fireOrdinary a s) := by
  obtain ⟨period, width⟩ := ok a ha
  have now := (fireOrdinary_schedulePart s a).ts
  have left := sum_filter_le (ArmedEntry.weight s.ts.now) (fun x => x.handle != a.handle) s.sched.armed a ha (by simp)
  have armed : (fireAction false a.entry (disarm a.handle s)).2.sched.armed
      = s.sched.armed.filter fun x => x.handle != a.handle := by
    unfold fireAction; dsimp only; split <;> simp [disarm]
  have lines : ∀ j : Fin 8, (fireOrdinary a s).lines[j].trailing = some 0 → s.lines[j].trailing = some 0 := by
    intro j hj
    have settled : (fireOrdinary a s).lines = (fireAction false a.entry (disarm a.handle s)).2.lines := by
      exact settle_lines _ 1 .complete _
    have fired : (fireAction false a.entry (disarm a.handle s)).2.lines =
        s.lines.set a.entry.desc.line (applyAction a.entry.desc.action s.lines[a.entry.desc.line]).1 := by
      unfold fireAction; dsimp only; split <;> simp [disarm]
    rw [settled, fired] at hj
    by_cases e : a.entry.desc.line = j
    · subst e
      simp only [Fin.getElem_fin, Vector.getElem_set_self] at hj
      obtain ⟨w, hw, ht⟩ := applyAction_trailing a.entry.desc.action s.lines[a.entry.desc.line] (by simp [hj])
      have := width w hw
      simp only [Fin.getElem_fin] at ht
      rw [ht] at hj
      simp only [Option.some.injEq] at hj
      omega
    · have e' : a.entry.desc.line.val ≠ j.val := fun h => e (Fin.ext h)
      simpa [Vector.getElem_set, e'] using hj
  refine ⟨?_, ?_, ?_⟩
  · unfold State.weight
    rw [now]
    unfold fireOrdinary
    dsimp only
    rcases settle_one_armed (fireAction false a.entry (disarm a.handle s)).2 .complete
      { a with entry := (fireAction false a.entry (disarm a.handle s)).1 } with e | ⟨r, b, h1, h2, h3, e⟩ <;> rw [e, armed]
    · have := weight_pos hr; omega
    · rw [((insertArmed_perm b _).map _).sum_eq, List.map_cons, List.sum_cons]
      have hb : b.weight s.ts.now + 1 ≤ a.weight s.ts.now := by
        have hrep : a.entry.desc.rep = some r := h1
        have hrep' : b.entry.desc.rep = some r := by rw [h2]; exact h1
        have p := period r hrep
        have hl : b.lin = a.lin + r.period := h3
        simp only [ArmedEntry.weight, hr, if_true, ArmedEntry.dueCount, hrep, hrep']
        split
        · rename_i hbr
          simp only [ArmedEntry.reached, decide_eq_true_eq, hl] at hbr
          have : ((s.ts.now.lin : Int) - a.lin) / r.period = (s.ts.now.lin - b.lin) / r.period + 1 := by
            rw [hl, show (s.ts.now.lin : Int) - a.lin = s.ts.now.lin - (a.lin + r.period) + r.period by omega,
              Int.add_ediv_of_dvd_right (dvd_refl _), Int.ediv_self (by omega)]
          have nn : 0 ≤ ((s.ts.now.lin : Int) - b.lin) / r.period := Int.ediv_nonneg (by omega) (by omega)
          omega
        · omega
      omega
  · unfold State.pulsesOver
    refine Finset.card_le_card fun j hj => ?_
    simp only [Finset.mem_filter, Finset.mem_univ, true_and, trailingDue, decide_eq_true_eq] at hj ⊢
    exact lines j hj
  · intro x hx
    unfold fireOrdinary at hx
    dsimp only at hx
    have keep : ∀ y ∈ s.sched.armed.filter (fun x => x.handle != a.handle), y ∈ s.sched.armed :=
      fun y hy => (List.mem_filter.mp hy).1
    rcases settle_one_armed (fireAction false a.entry (disarm a.handle s)).2 .complete
      { a with entry := (fireAction false a.entry (disarm a.handle s)).1 } with e | ⟨r, b, h1, h2, h3, e⟩ <;> rw [e, armed] at hx
    · exact ok x (keep x hx)
    · rcases mem_insertArmed.mp hx with rfl | hx
      · have : x.entry.desc = a.entry.desc := h2
        rw [this]; exact ⟨period, width⟩
      · exact ok x (keep x hx)

/-- An expiry on a line where a trailing edge has run out ends that one, and no firing. -/
theorem endPulse_weight (i : Fin 8) (h : trailingDue i s = true) :
    (endPulse i s).weight = s.weight ∧ (endPulse i s).pulsesOver + 1 ≤ s.pulsesOver := by
  have ended : trailingDue i (endPulse i s) = false := by simp [endPulse, trailingDue]
  refine ⟨rfl, ?_⟩
  unfold State.pulsesOver
  refine Finset.card_lt_card ((Finset.ssubset_iff_of_subset fun j hj => ?_).mpr ⟨i, by simpa using h, by simp [ended]⟩)
  simp only [Finset.mem_filter, Finset.mem_univ, true_and] at hj ⊢
  by_cases e : i = j
  · exact e ▸ h
  · have e' : i.val ≠ j.val := fun h => e (Fin.ext h)
    simpa [trailingDue, endPulse, Vector.getElem_set, e'] using hj

/-- Carried out far enough, the firings of a correction leave no entry reached (R92, R99). -/
theorem fireAll_done (n : Nat) (ok : Paced s) (h : s.weight + s.pulsesOver ≤ n) :
    ∀ a ∈ (fireAll n s).sched.armed, a.reached s.ts.now = false := by
  induction n generalizing s with
  | zero =>
    intro a ha
    by_contra hr
    have := weight_pos (now := s.ts.now) (a := a) (by simpa using hr)
    have : a.weight s.ts.now ≤ s.weight := List.single_le_sum (by simp) _ (List.mem_map_of_mem ha)
    omega
  | succ n ih =>
    unfold fireAll
    split
    · rename_i hn
      refine firable_nil ?_
      by_contra hf
      obtain ⟨a, l, hl⟩ := List.exists_cons_of_ne_nil hf
      have : s.firable = a :: l := hl
      rw [this, List.flatMap_cons, List.append_eq_nil_iff] at hn
      have := hn.1
      unfold nextOnLine at this
      split at this <;> cases this
    · rename_i act rest hl
      dsimp only
      have hm := pick_mem s act rest
      rw [← hl] at hm
      obtain ⟨a, hf, ha⟩ := List.mem_flatMap.mp hm
      have picked : (pick act rest s).2.sched = s.sched ∧ (pick act rest s).2.lines = s.lines ∧
          (pick act rest s).2.ts = s.ts := by unfold pick; cases rest <;> exact ⟨rfl, rfl, rfl⟩
      generalize (pick act rest s).2 = u at *
      obtain ⟨p1, p2, p3⟩ := picked
      have w : u.weight = s.weight := by unfold State.weight; rw [p1, p3]
      have v : u.pulsesOver = s.pulsesOver := by unfold State.pulsesOver trailingDue; rw [p2]
      have okU : Paced u := by unfold Paced; rw [p1]; exact ok
      have memA := mem_firable hf
      rcases nextOnLine_cases ha with e | ⟨hd, e⟩ <;> rw [e]
      · obtain ⟨a1, a2, a3⟩ := fireOrdinary_weight u a okU (by rw [p1]; exact memA.1) (by rw [p3]; exact memA.2)
        have := ih (fireOrdinary a u) a3 (by omega)
        rwa [(fireOrdinary_schedulePart u a).ts, p3] at this
      · have hd' : trailingDue a.entry.desc.line u = true := by
          unfold trailingDue at hd ⊢; rw [p2]; exact hd
        obtain ⟨a1, a2⟩ := endPulse_weight u _ hd'
        have := ih (endPulse a.entry.desc.line u) okU (by omega)
        rwa [(endPulse_schedulePart u _).ts, p3] at this

/-- After the firings that a correction brings no entry is reached (R92, R99). -/
theorem fireReached_done (ok : Paced s) : ∀ a ∈ (fireReached s).sched.armed, a.reached s.ts.now = false := by
  refine fireAll_done s _ ok ?_
  have : s.pulsesOver ≤ 8 := by
    unfold State.pulsesOver
    exact (Finset.card_le_univ _).trans (by simp)
  unfold State.weight ArmedEntry.weight
  omega

end Sys2Proof.Machine
end

