-- ==== Sys2Proof/Laws/Take.lean ====
section
/-! SUPPORT. What taking a request and an event of the part can do. -/

namespace Sys2Proof.Machine

variable (s : State)

/-- What a head request says of the state (R175). -/
theorem headRequest_some {r : Request} (h : headRequest s = some r) :
    s.run = .running ∧ s.link.partPending = false ∧ s.link.outbound.any OutFrame.isDispatched = false ∧
      ∃ rest, s.link.requests = r :: rest := by
  unfold headRequest dispatcherReady at h
  split at h
  · rename_i hr
    simp only [Bool.and_eq_true, decide_eq_true_eq, Bool.not_eq_true'] at hr
    exact ⟨hr.1.1, hr.2, hr.1.2, List.head?_eq_some_iff.mp h⟩
  · cases h

/-- A take does nothing, or carries out the head request and answers it (R175). -/
theorem take_cases (accepts : Request → Bool) (owner : Request → State → Reply × State) :
    (take accepts owner s = .next s) ∨
      ∃ r, headRequest s = some r ∧ accepts r = true ∧
        take accepts owner s =
          .next (answer .dispatched r (owner r (dequeueRequest s)).1 (owner r (dequeueRequest s)).2) := by
  unfold take
  split
  · exact .inl rfl
  · rename_i r h
    split
    · rename_i ha
      exact .inr ⟨r, h, ha, rfl⟩
    · exact .inl rfl

/-- A take of a head request that the command takes (R175). -/
theorem take_of_head {accepts : Request → Bool} {owner : Request → State → Reply × State} {r : Request}
    (h : headRequest s = some r) (ha : accepts r = true) :
    take accepts owner s =
      .next (answer .dispatched r (owner r (dequeueRequest s)).1 (owner r (dequeueRequest s)).2) := by
  simp [take, h, ha]

/-- A request whose payload reads is carried out on what it reads. -/
theorem parsed_of_read {α : Type} {read : List Byte → Option α} {owner : α → State → Reply × State} {r : Request}
    {x : α} (h : read r.payload = some x) : parsed read owner r s = owner x s := by
  simp [parsed, h]

/-- A request whose payload does not read is MALFORMED (R176, R184). -/
theorem parsed_of_malformed {α : Type} {read : List Byte → Option α} {owner : α → State → Reply × State} {r : Request}
    (h : read r.payload = none) : parsed read owner r s = (plainReply .malformed, s) := by
  simp [parsed, h]

/-- A request without a payload is carried out. -/
theorem bare_of_nil {owner : State → Reply × State} {r : Request} (h : r.payload = []) : bare owner r s = owner s := by
  simp [bare, h]

/-- An event has its effect or does nothing. -/
theorem event_cases (happens : Bool) (effect : State → State) :
    (event happens effect s = .next s) ∨
      (s.run = .running ∧ happens = true ∧ event happens effect s = .next (effect s)) := by
  unfold event
  split
  · rename_i h; exact .inr ⟨h.1, h.2, rfl⟩
  · exact .inl rfl

/-- An event that can happen has its effect. -/
theorem event_of (happens : Bool) (effect : State → State) (h : s.run = .running) (hh : happens = true) :
    event happens effect s = .next (effect s) := by
  simp [event, h, hh]

/-! ## Answering -/

@[simp] theorem answer_run (o : ReplyOrigin) (r : Request) (rep : Reply) : (answer o r rep s).run = s.run := rfl
@[simp] theorem answer_elapsed (o : ReplyOrigin) (r : Request) (rep : Reply) : (answer o r rep s).elapsed = s.elapsed := rfl
@[simp] theorem answer_ts (o : ReplyOrigin) (r : Request) (rep : Reply) : (answer o r rep s).ts = s.ts := rfl
@[simp] theorem answer_monA (o : ReplyOrigin) (r : Request) (rep : Reply) : (answer o r rep s).monA = s.monA := rfl
@[simp] theorem answer_monB (o : ReplyOrigin) (r : Request) (rep : Reply) : (answer o r rep s).monB = s.monB := rfl
@[simp] theorem answer_disc (o : ReplyOrigin) (r : Request) (rep : Reply) : (answer o r rep s).disc = s.disc := rfl
@[simp] theorem answer_sched (o : ReplyOrigin) (r : Request) (rep : Reply) : (answer o r rep s).sched = s.sched := rfl
@[simp] theorem answer_lines (o : ReplyOrigin) (r : Request) (rep : Reply) : (answer o r rep s).lines = s.lines := rfl
@[simp] theorem answer_caps (o : ReplyOrigin) (r : Request) (rep : Reply) : (answer o r rep s).caps = s.caps := rfl
@[simp] theorem answer_shown (o : ReplyOrigin) (r : Request) (rep : Reply) : (answer o r rep s).shown = s.shown := rfl
@[simp] theorem answer_sampled (o : ReplyOrigin) (r : Request) (rep : Reply) : (answer o r rep s).sampled = s.sampled := rfl
@[simp] theorem answer_journal (o : ReplyOrigin) (r : Request) (rep : Reply) : (answer o r rep s).journal = s.journal := rfl
@[simp] theorem answer_attn (o : ReplyOrigin) (r : Request) (rep : Reply) : (answer o r rep s).attn = s.attn := rfl
@[simp] theorem answer_choices (o : ReplyOrigin) (r : Request) (rep : Reply) : (answer o r rep s).choices = s.choices := rfl
@[simp] theorem answer_pending (o : ReplyOrigin) (r : Request) (rep : Reply) : (answer o r rep s).pending = s.pending := rfl

/-- An answer queues the reply and caches it (R174, R175). -/
@[simp] theorem answer_link (o : ReplyOrigin) (r : Request) (rep : Reply) :
    (answer o r rep s).link =
      { s.link with
        outbound := s.link.outbound ++ [.reply o (replyFrame r.kind r.seq rep)]
        cache := pushCache ⟨r.kind, r.seq, r.crc, replyFrame r.kind r.seq rep⟩ s.link.cache } := rfl

/-- The cache never holds more than four entries (R174). -/
theorem pushCache_length (e : CacheEntry) (c : List CacheEntry) (h : c.length ≤ 4) : (pushCache e c).length ≤ 4 := by
  unfold pushCache
  split
  · rename_i hl
    simp only [List.length_append, List.length_singleton]
    simp only [Config.cacheCapacity] at hl
    omega
  · simp only [List.length_append, List.length_singleton, List.length_tail]
    omega

end Sys2Proof.Machine
end

