-- ==== Sys2Proof/Laws/Tick.lean ====
section
/-! SUPPORT. Which events are due, and what one tick of the local oscillator does, block by block. -/

namespace Sys2Proof.Machine

variable (s : State)

/-! ## The events that are due -/

theorem mem_whenDue (due : Bool) (c x : Instr) : x ∈ whenDue due c ↔ due = true ∧ x = c := by
  cases due <;> simp [whenDue]

theorem mem_takeDue (c : Instr) : c ∈ takeDue s ↔ ∃ r, headRequest s = some r ∧ c = requestCommand r := by
  unfold takeDue
  cases headRequest s <;> simp

theorem mem_pathDue (p : Path) (c : Instr) :
    c ∈ pathDue p s ↔
      (windowDue p s = true ∧ c = .stepWindowExpiry p) ∨ (silenceDue p s = true ∧ c = .silenceTimerExpiry p)
        ∨ (holdOffDue p s = true ∧ c = .holdOffTimerExpiry p) := by
  simp only [pathDue, List.mem_append, mem_whenDue, or_assoc]

theorem mem_trailingsDue (c : Instr) :
    c ∈ trailingsDue s ↔ ∃ i, trailingDue i s = true ∧ c = .trailingEdgeExpiry i := by
  have all : ∀ i : Fin 8, i ∈ ([0, 1, 2, 3, 4, 5, 6, 7] : List (Fin 8)) := by decide
  simp only [trailingsDue, List.mem_map, List.mem_filter, all, true_and, eq_comm]

theorem mem_deadTimesDue (c : Instr) :
    c ∈ deadTimesDue s ↔ ∃ i, deadTimeDue i s = true ∧ c = .deadTimeExpiry i := by
  have all : ∀ i : Fin 4, i ∈ ([0, 1, 2, 3] : List (Fin 4)) := by decide
  simp only [deadTimesDue, List.mem_map, List.mem_filter, all, true_and, eq_comm]

/-- Nothing is due in a part that does not run. -/
theorem due_stopped (h : s.run ≠ .running) : due s = [] := by
  unfold due
  rw [if_neg h]

/-- The rows that a part that runs can bring by itself, each with its condition. -/
theorem mem_due (h : s.run = .running) (c : Instr) :
    c ∈ due s ↔
      (s.ts.boundaryDue = true ∧ c = .secondBoundary) ∨ (holdDue s = true ∧ c = .anchorHoldEnd)
        ∨ (∃ a ∈ s.firable, c = .firing a.handle) ∨ (∃ p, c ∈ pathDue p s)
        ∨ (holdoverDue s.disc = true ∧ c = .holdoverTimerExpiry)
        ∨ (∃ i, trailingDue i s = true ∧ c = .trailingEdgeExpiry i)
        ∨ (∃ i, deadTimeDue i s = true ∧ c = .deadTimeExpiry i)
        ∨ (∃ r, headRequest s = some r ∧ c = requestCommand r)
        ∨ (canBegin s.link = true ∧ c = .frameTransmitStart) := by
  have paths : (∃ p, c ∈ pathDue p s) ↔ c ∈ pathDue .a s ∨ c ∈ pathDue .b s :=
    ⟨fun ⟨p, hp⟩ => by cases p <;> simp [hp], fun hp => hp.elim (⟨.a, ·⟩) (⟨.b, ·⟩)⟩
  unfold due
  rw [if_pos h, paths]
  simp only [List.mem_append, mem_whenDue, List.mem_map, mem_trailingsDue, mem_deadTimesDue, mem_takeDue,
    @eq_comm _ _ c, or_assoc]

/-! ## One tick -/

/-- Out of running, a tick only counts (log entry 1). -/
theorem tick_stopped (h : s.run ≠ .running) : tick s = { s with elapsed := s.elapsed + 1 } := by
  unfold tick
  rw [if_neg h]

/-- In a part that runs, the instant ends, the timers count and the timescale advances. -/
theorem tick_running (h : s.run = .running) :
    tick s = tickTimescale (tickTimers (endInstant { s with elapsed := s.elapsed + 1 })) := by
  unfold tick
  rw [if_pos h]

/-- An advance either stays within the second or passes its end, which makes a second boundary due (R1, R6). -/
theorem advanceBy_cases (ticks : Nat) :
    (s.ts.now.tick + ticks < Config.ticksPerSecond ∧
        advanceBy ticks s = setTs { s.ts with now := ⟨s.ts.now.sec, s.ts.now.tick + ticks⟩ } s) ∨
      (Config.ticksPerSecond ≤ s.ts.now.tick + ticks ∧
        (advanceBy ticks s).ts =
          { s.ts with
            now := ⟨(s.ts.now.sec + 1) % Config.secondsModulus, s.ts.now.tick + ticks - Config.ticksPerSecond⟩
            boundaryDue := true } ∧
        (advanceBy ticks s).sched =
          (if Config.secondsModulus ≤ s.ts.now.sec + 1 then
            { s.sched with armed := s.sched.armed.map fun a => { a with lap := a.lap - 1 } }
          else s.sched)) := by
  unfold advanceBy
  dsimp only
  split
  · rename_i h
    exact .inl ⟨h, rfl⟩
  · rename_i h
    refine .inr ⟨Nat.le_of_not_lt h, ?_, ?_⟩ <;> split <;> rfl

/-- The pins come to the levels of the lines at the end of the instant (R112). -/
theorem tick_shown (h : s.run = .running) (i : Fin 8) : (tick s).shown[i] = s.lines[i].level := by
  rw [tick_running s h, (tickTimescale_internal _).shown]
  simp

end Sys2Proof.Machine
end

