-- ==== Sys2Proof/WellFormed.lean ====
section
/-! DEFINITION. Which commands can be sent at all: the checks that an operand's type does not make by itself. -/

namespace Sys2Proof

/-- A command is well formed when its operands name something the part has. A firing names a handle from 1 to 4095
(Table 4.1), and the LEN byte of a length error lies outside 2 to 242 (R165). -/
def Instr.wellFormed (c : Instr) : Bool :=
  match c with
  | .firing h => decide (1 ≤ h) && decide (h ≤ 4095)
  | .frameLengthError len => decide (len.toNat < 2) || decide (242 < len.toNat)
  | .powerOn _ | .resetNLow | .resetNRelease _ | .queryStatus | .resetSchedule | .resetJournal
  | .resetTimescale | .resetPart | .queryTime | .setTime | .cancelSet | .adjustTime | .stepTime
  | .setPathConfig | .pathControlRestart | .pathControlEnable | .pathControlDisable | .queryPaths
  | .setDisciplineConfig | .admitEntry | .withdrawEntry | .queryEntry | .listSchedule | .setLineConfig
  | .driveLine | .queryLines | .setCaptureConfig | .readJournal | .setAttention | .ackAttention
  | .unknownKind | .frameReceived _ | .gapLimitExpiry | .linkBreak _ | .breakRelease
  | .frameTransmitStart | .frameTransmitEnd _ | .secondBoundary | .anchorHoldEnd | .referenceStep _ _
  | .stepWindowExpiry _ | .silenceTimerExpiry _ | .holdOffTimerExpiry _ | .holdoverTimerExpiry
  | .trailingEdgeExpiry _ | .captureEdge _ _ | .deadTimeExpiry _ | .byteReceived _
  | .transmitterStops _ | .powerOff => true

end Sys2Proof
end

