-- ==== Sys2Proof/Tests/Slice0.lean ====
section
/-! SUPPORT. The author's own tests: the well-formedness smoke, one or two small runs for each command, and for every
statement that has hypotheses a concrete state and operands that meet them. -/

set_option Elab.async false

namespace Sys2Proof.Tests

open Sys2Proof Sys2Proof.Machine

/-! ## Well-formedness -/

theorem test_wellFormed_refuses_handle_zero : (Instr.firing 0).wellFormed = false := by decide +kernel
theorem test_wellFormed_refuses_handle_above : (Instr.firing 4096).wellFormed = false := by decide +kernel
theorem test_wellFormed_takes_handle_bounds :
    (Instr.firing 1).wellFormed = true ∧ (Instr.firing 4095).wellFormed = true := by decide +kernel
theorem test_wellFormed_refuses_good_length :
    (Instr.frameLengthError 2#8).wellFormed = false ∧ (Instr.frameLengthError 242#8).wellFormed = false := by decide +kernel
theorem test_wellFormed_takes_bad_length :
    (Instr.frameLengthError 1#8).wellFormed = true ∧ (Instr.frameLengthError 243#8).wellFormed = true := by decide +kernel

/-! ## Small states -/

/-- The state after a command; no command faults or is refused. -/
def after (c : Instr) (s : State) : State :=
  match exec c s with
  | .next t => t
  | .fault _ => s
  | .refused _ => s

/-- Straps and capture pins low. -/
def lowPins : PinSample := ⟨.low, .low, .low, .low, .low, .low⟩

/-- A request with this KIND and payload. -/
def request (kind : Byte) (payload : List Byte) : Request := ⟨kind, 7#8, 0#16, payload⟩

/-- A state with this request alone in the request queue. -/
def asking (kind : Byte) (payload : List Byte) (s : State) : State :=
  { s with link := { s.link with requests := [request kind payload] } }

/-- The status byte of the newest cached reply: a frame is SYNC, LEN, KIND, SEQ, status. -/
def statusOf (s : State) : Option Byte := s.link.cache.getLast?.bind fun e => e.frame[4]?

/-- The time SET at this value. -/
def atTime (sec tick : Nat) (s : State) : State :=
  { s with ts := { s.ts with now := ⟨sec, tick⟩, timeState := .set } }

/-- Every output line in this mode, idle LOW. -/
def allLines (mode : LineMode) (s : State) : State :=
  { s with lines := Vector.replicate 8 ⟨mode, .low, .low, none⟩ }

/-- The discipline controller in a state with a selected path. -/
def inDiscipline (st : DiscState) (sel : Option Path) (s : State) : State :=
  { s with disc := { s.disc with state := st, selected := sel } }

/-- A monitor that watches in this state, its reference instant at the present. -/
def watching (st : PathState) (p : Path) (s : State) : State :=
  setMon p
    { s.mon p with
      state := st
      refInstant := some s.elapsed
      window := some 125125
      silence := if st = .qualifying then some 250000000 else none } s

/-- A TIMED or TRIGGERED entry's descriptor as it is sent (Table 11.5). -/
def sentEntry (handle : Nat) (action start late : Byte) (mode rep : Byte) (width first period : TimeValue)
    (count : Nat) : List Byte :=
  beBytes 2 handle ++ [0#8, action, start, 1#8, mode, rep, late, 1#8, 1#8, 0#8] ++ timeBytes width
    ++ timeBytes first ++ timeBytes period ++ beBytes 2 count

/-- An entry on output line 0 that raises it once, with records. -/
def riseOnce (handle : Nat) (start : StartSpec) : Entry :=
  ⟨⟨handle, 0, .rise, start, none, .fire, true, true⟩, 0, 0, 1⟩

/-- One armed entry, due at this time, on SCHEDULED lines. -/
def withArmed (due : TimeValue) (s : State) : State :=
  setArmed [⟨riseOnce 5 (.timed due), due, 0⟩] (allLines .scheduled s)

/-- One entry waiting on capture line 1, on SCHEDULED lines. -/
def withWaiting (s : State) : State :=
  setWaiting 1 [riseOnce 6 (.triggered 1 125 .once)] (allLines .scheduled s)

/-- A record for a journal. -/
def someRecord (seq : Half) : Record := ⟨seq, 0#16, ⟨0, 0⟩, .era 1#16 .step⟩

/-- The journal full, with or without an overrun. -/
def fullJournal (overrun : Bool) (missed : Nat) (s : State) : State :=
  { s with journal :=
    { s.journal with records := List.replicate 256 (someRecord 0#16), overrun := overrun, missed := missed } }

/-- Nothing waits to be sent. -/
def quietLink (s : State) : State := { s with link := { s.link with outbound := [] } }

/-- A frame in transmission. -/
def sending (partReply stopping : Bool) (s : State) : State :=
  { s with link := { s.link with tx := some ⟨[], partReply, stopping⟩ } }

/-- At a tick at which no capture pin has been sampled yet. -/
def unsampled : State := { State.reset with sampled := Vector.replicate 4 false }

/-- Running free through a second with this slew and this frequency correction. -/
def runningFree (slew freq : Int) (done : Nat) (s : State) : State :=
  { s with ts := { s.ts with freeRun := ⟨slew, freq, 0, done⟩ } }

/-- The receiver in a state with these bytes. -/
def receiving (rx : RxState) (bytes : List Byte) : State := setReceiver rx bytes State.reset

/-! ## One step of each command -/

theorem test_powerOn : (after (.powerOn lowPins) { State.reset with run := .off }).link.startCause = .power := by decide +kernel

theorem test_resetNLow :
    (after .resetNLow (atTime 9 9 State.reset)).run = .inReset ∧
      (after .resetNLow (atTime 9 9 State.reset)).ts.now = ⟨0, 0⟩ := by decide +kernel

theorem test_resetNRelease :
    (after (.resetNRelease ⟨.high, .low, .high, .low, .low, .low⟩) { State.reset with run := .inReset }).link.rate
      = .baud1000000 := by decide +kernel

theorem test_powerOff : (after .powerOff (sending false false State.reset)).link.tx = none := by decide +kernel

theorem test_queryStatus : statusOf (after .queryStatus (asking 0x01#8 [] State.reset)) = some 0x00#8 := by decide +kernel

theorem test_resetSchedule :
    (after .resetSchedule (asking 0x02#8 [0x00#8] (withArmed ⟨9, 0⟩ State.reset))).sched.armed = [] := by decide +kernel

theorem test_resetJournal :
    let t := after .resetJournal (asking 0x02#8 [0x01#8] (fullJournal true 3 State.reset))
    t.journal.records = [] ∧ t.journal.overrun = false ∧ t.journal.missed = 0 := by decide +kernel

theorem test_resetTimescale :
    let t := after .resetTimescale (asking 0x02#8 [0x02#8] (atTime 9 8 State.reset))
    t.ts.now = ⟨0, 8⟩ ∧ t.ts.timeState = .unset ∧ t.ts.era = 1#16 ∧ t.journal.records.length = 1 := by decide +kernel

theorem test_resetPart :
    (after .resetPart (asking 0x02#8 [0x03#8] State.reset)).link.partPending = true := by decide +kernel

theorem test_queryTime :
    (after .queryTime (asking 0x03#8 [] (atTime 1 2 State.reset))).link.outbound.length = 2 := by decide +kernel

theorem test_setTime :
    (after .setTime (asking 0x04#8 [0#8, 0#8, 0#8, 0#8, 5#8] State.reset)).ts.stagedLoad = some 5 := by decide +kernel

theorem test_cancelSet :
    (after .cancelSet
      (asking 0x05#8 [] { State.reset with ts := { Timescale.reset with stagedLoad := some 5 } })).ts.stagedLoad
      = none := by decide +kernel

theorem test_adjustTime :
    (after .adjustTime
      (asking 0x06#8 [1#8, 0#8, 0#8, 0#8, 0#8, 0#8, 0#8, 0#8, 9#8] State.reset)).ts.remainingSlew = -9 := by decide +kernel

theorem test_stepTime :
    let t := after .stepTime (asking 0x07#8 [0#8, 0#8, 0#8, 0#8, 0#8, 0x08#8, 0#8, 0#8, 9#8] (atTime 3 4 State.reset))
    t.ts.now = ⟨4, 13⟩ ∧ t.ts.era = 1#16 := by decide +kernel

theorem test_setPathConfig :
    (after .setPathConfig
      (asking 0x08#8 [1#8, 0#8, 0#8, 0#8, 0#8, 9#8, 0#8, 7#8, 1#8, 2#8, 3#8, 1#8, 0x0E#8, 0x10#8]
        (setMon .b { Monitor.reset with state := .disabled } State.reset))).monB.config
      = ⟨0, 9, 7, 1, 2, 3, true, 3600⟩ := by decide +kernel

theorem test_pathControlRestart :
    (after .pathControlRestart
      (asking 0x09#8 [0#8, 0#8] (watching .good .a State.reset))).monA.state = .absent := by decide +kernel

theorem test_pathControlEnable :
    (after .pathControlEnable
      (asking 0x09#8 [1#8, 1#8] (setMon .b { Monitor.reset with state := .disabled } State.reset))).monB.state
      = .absent := by decide +kernel

theorem test_pathControlDisable :
    let t := after .pathControlDisable
      (asking 0x09#8 [0#8, 2#8] (inDiscipline .locked (some .a) (watching .good .a State.reset)))
    t.monA.state = .disabled ∧ t.disc.state = .holdover ∧ t.disc.selected = none := by decide +kernel

theorem test_queryPaths : statusOf (after .queryPaths (asking 0x0A#8 [0#8] State.reset)) = some 0x03#8 := by decide +kernel

theorem test_setDisciplineConfig :
    (after .setDisciplineConfig
      (asking 0x0B#8 [4#8, 0#8, 0#8, 0#8, 0#8, 0#8, 1#8, 0#8, 0#8, 0#8, 0#8, 0#8, 1#8]
        (inDiscipline .locked (some .a) (watching .good .a State.reset)))).disc.state = .free := by decide +kernel

theorem test_admitEntry :
    (after .admitEntry
      (asking 0x0C#8 (sentEntry 5 0#8 0#8 0#8 0#8 0#8 ⟨0, 0⟩ ⟨9, 0⟩ ⟨0, 0⟩ 0)
        (atTime 3 4 (allLines .scheduled State.reset)))).sched.armed.map ArmedEntry.due = [⟨9, 0⟩] := by decide +kernel

theorem test_admitEntry_notSet :
    statusOf
      (after .admitEntry
        (asking 0x0C#8 (sentEntry 5 0#8 0#8 0#8 0#8 0#8 ⟨0, 0⟩ ⟨9, 0⟩ ⟨0, 0⟩ 0) State.reset)) = some 0x06#8 := by
  decide +kernel

theorem test_withdrawEntry :
    let t := after .withdrawEntry (asking 0x0D#8 [0#8, 5#8] (atTime 1 0 (withArmed ⟨9, 0⟩ State.reset)))
    t.sched.armed = [] ∧ t.journal.records.map Record.body = [.removed 5 .withdrawn 0] := by decide +kernel

theorem test_queryEntry :
    statusOf (after .queryEntry (asking 0x0E#8 [0#8, 6#8] (withArmed ⟨9, 0⟩ State.reset))) = some 0x08#8 := by decide +kernel

theorem test_listSchedule :
    scheduleReport (withArmed ⟨9, 0⟩ (withWaiting State.reset)).sched = [1#8, 1#8, 0#8, 5#8, 0#8, 6#8] := by decide +kernel

theorem test_setLineConfig :
    (after .setLineConfig (asking 0x10#8 [7#8, 2#8, 1#8] State.reset)).lines[(7 : Fin 8)]
      = ⟨.manual, .high, .low, none⟩ := by decide +kernel

theorem test_driveLine :
    let t := after .driveLine (asking 0x11#8 [2#8, 1#8] (allLines .manual State.reset))
    t.lines[(2 : Fin 8)].level = .high ∧ outPin t 2 = some .low ∧ outPin (quietLink t) 2 = some .high := by decide +kernel

theorem test_queryLines : (linesReport State.reset).take 9 = [0#8, 0#8, 0#8, 0#8, 0#8, 0#8, 0#8, 0#8, 0#8] := by
  decide +kernel

theorem test_setCaptureConfig :
    (after .setCaptureConfig
      (asking 0x13#8 [3#8, 2#8, 0#8, 0#8, 0#8, 0#8, 0#8, 0#8, 0#8, 9#8, 1#8, 0#8] State.reset)).caps[(3 : Fin 4)]
      = ⟨.fall, 9, true, false, none, .low⟩ := by decide +kernel

theorem test_readJournal :
    let s := { State.reset with journal := ⟨[someRecord 0#16, someRecord 1#16], 2#16, 1, false, 0, ⟨0, 0⟩, 64⟩ }
    let t := after .readJournal (asking 0x14#8 [1#8, 9#8] s)
    t.journal.records = [someRecord 1#16] ∧ t.journal.delivered = 1 := by decide +kernel

theorem test_setAttention :
    let t := after .setAttention (asking 0x15#8 [0x10#8, 0#8, 1#8]
      { State.reset with journal := ⟨[someRecord 0#16], 1#16, 0, false, 0, ⟨0, 0⟩, 64⟩ })
    t.attn.stateOf .journalLevel = .raised ∧ t.attn.isSubscribed .link = false := by decide +kernel

theorem test_ackAttention :
    (after .ackAttention (asking 0x16#8 [0x7F#8] (setKind .link .notified State.reset))).attn.stateOf .link
      = .quiet := by decide +kernel

theorem test_unknownKind : statusOf (after .unknownKind (asking 0x17#8 [] State.reset)) = some 0x02#8 := by decide +kernel

theorem test_byteReceived : (after (.byteReceived 0x9D#8) State.reset).link.rx = .length := by decide +kernel

theorem test_frameReceived :
    let sent := (mkFrame 0x01#8 9#8 []).drop 1
    (after (.frameReceived (sent.getLast?.getD 0#8)) (receiving .body sent.dropLast)).link.requests.map Request.seq
      = [9#8] := by decide +kernel

theorem test_frameLengthError :
    (after (.frameLengthError 1#8) (receiving .length [])).link.totals = ⟨1, 0, 0, 0⟩ := by decide +kernel

theorem test_gapLimitExpiry :
    (after .gapLimitExpiry (receiving .body [2#8])).link.lastError = some .truncated := by decide +kernel

theorem test_linkBreak :
    let t := after (.linkBreak lowPins) (asking 0x01#8 [] (setKind .link .notified State.reset))
    t.link.requests = [] ∧ t.attn.stateOf .link = .raised ∧ t.link.outbound = [.announce .linkBreak] := by decide +kernel

theorem test_breakRelease :
    (after .breakRelease { State.reset with link := { Link.reset with inBreak := true } }).link.inBreak = false := by
  decide +kernel

theorem test_frameTransmitStart :
    let t := after .frameTransmitStart State.reset
    t.link.outbound = [] ∧ t.link.unsolicitedSeq = 1#8 ∧ t.link.tx.isSome = true := by decide +kernel

theorem test_frameTransmitEnd :
    (after (.frameTransmitEnd lowPins) (sending true false State.reset)).link.startCause = .partRequest := by decide +kernel

theorem test_transmitterStops :
    (after (.transmitterStops lowPins) (sending false true State.reset)).link.tx = none := by decide +kernel

theorem test_secondBoundary :
    let s := { State.reset with
      ts := { Timescale.reset with boundaryDue := true, stagedLoad := some 77, remainingSlew := -1000 } }
    let t := after .secondBoundary s
    t.ts.now = ⟨77, 0⟩ ∧ t.ts.timeState = .set ∧ t.ts.slewAmount = -625 ∧ t.ts.remainingSlew = -375 := by decide +kernel

theorem test_anchorHoldEnd :
    (after .anchorHoldEnd { State.reset with ts := { Timescale.reset with hold := some 0 } }).ts.hold = none := by decide +kernel

theorem test_firing :
    let t := after (.firing 5) (atTime 9 0 (withArmed ⟨9, 0⟩ State.reset))
    t.lines[(0 : Fin 8)].level = .high ∧ t.sched.armed = [] ∧
      t.journal.records.map Record.body = [.fired 5 0 .rise false false 1, .removed 5 .complete 1] := by decide +kernel

theorem test_referenceStep :
    let t := after (.referenceStep .a .high) State.reset
    t.monA.state = .qualifying ∧ t.monA.window = some 125125 ∧ t.journal.records.length = 1 := by decide +kernel

theorem test_stepWindowExpiry :
    let s := setMon .a { (watching .qualifying .a State.reset).monA with window := some 0 } State.reset
    (after (.stepWindowExpiry .a) s).monA.totals.missingStep = 1 := by decide +kernel

theorem test_silenceTimerExpiry :
    let s := setMon .b { (watching .qualifying .b State.reset).monB with silence := some 0 } State.reset
    (after (.silenceTimerExpiry .b) s).monB.state = .absent := by decide +kernel

theorem test_holdOffTimerExpiry :
    (after (.holdOffTimerExpiry .b)
      (setMon .b { Monitor.reset with state := .failed, holdOff := some 0 } State.reset)).monB.state = .absent := by
  decide +kernel

theorem test_holdoverTimerExpiry :
    let s := inDiscipline .holdover none State.reset
    (after .holdoverTimerExpiry { s with disc := { s.disc with holdoverTimer := some 75000000000 } }).disc.state
      = .free := by decide +kernel

theorem test_trailingEdgeExpiry :
    (after (.trailingEdgeExpiry 3)
      (setLine 3 ⟨.scheduled, .high, .low, some 0⟩ State.reset)).lines[(3 : Fin 8)]
      = ⟨.scheduled, .high, .high, none⟩ := by decide +kernel

theorem test_captureEdge :
    let s := setCap 1 ⟨.rise, 50, true, true, none, .low⟩ (atTime 2 0 (withWaiting unsampled))
    let t := after (.captureEdge 1 .high) s
    t.caps[(1 : Fin 4)] = ⟨.off, 50, true, true, some 50, .high⟩ ∧
      t.sched.armed.map ArmedEntry.due = [⟨2, 125⟩] ∧ t.sched.waiting[(1 : Fin 4)] = [] := by decide +kernel

/-- A pin that turns and turns back within one tick gives one edge (R122, log entry 30). -/
theorem test_captureEdge_onceATick :
    let t := after (.captureEdge 1 .low) (after (.captureEdge 1 .high) (setCap 1 ⟨.both, 0, false, true, none, .low⟩ unsampled))
    t.caps[(1 : Fin 4)].level = .high ∧ t.journal.records.length = 1 ∧ (tick t).sampled[(1 : Fin 4)] = false := by
  decide +kernel

theorem test_deadTimeExpiry :
    (after (.deadTimeExpiry 0) (setCap 0 ⟨.both, 9, false, true, some 0, .high⟩ State.reset)).caps[(0 : Fin 4)].timer
      = none := by decide +kernel

/-! ## One tick, the pins and jumps -/

/-- Free running with N = 0; the two ticks of an adjustment at a third of the second, and the one before it; withheld;
anchored; held. -/
theorem test_tick :
    (tick (atTime 9 5 State.reset)).ts.now = ⟨9, 6⟩ ∧
      (tick (runningFree 3 1 0 (atTime 9 41666665 State.reset))).ts.now = ⟨9, 41666666⟩ ∧
      (tick (runningFree 3 1 0 (atTime 9 41666666 State.reset))).ts.now = ⟨9, 41666668⟩ ∧
      (tick (runningFree 0 1 0 (atTime 9 62500000 State.reset))).ts.now = ⟨9, 62500000⟩ ∧
      (tick (inDiscipline .locked (some .a) (runningFree 3 1 0 (atTime 9 41666666 State.reset)))).ts.now
        = ⟨9, 41666667⟩ ∧
      (tick { State.reset with ts := { Timescale.reset with hold := some 7 } }).ts.hold = some 6 := by decide +kernel

/-- The end of a second, with the last inserted tick late (log entry 28), and the wrap of the seconds. -/
theorem test_tick_endOfSecond :
    let late := tick (runningFree 1 0 0 (atTime 9 124999999 State.reset))
    let last := tick (setArmed [⟨riseOnce 5 (.timed ⟨0, 9⟩), ⟨0, 9⟩, 1⟩] (atTime 137438953471 124999999 State.reset))
    late.ts.now = ⟨10, 1⟩ ∧ late.ts.boundaryDue = true ∧ last.ts.now = ⟨0, 0⟩ ∧
      last.sched.armed.map ArmedEntry.lap = [0] := by decide +kernel

/-- While something of the instant is still to come, the pin keeps the level of the last instant; the tick renews it (R112). -/
theorem test_pinWaitsForTheInstant :
    let before := quietLink (atTime 9 0 (withArmed ⟨9, 0⟩ State.reset))
    let fired := after (.firing 5) before
    outPin before 0 = some .low ∧ fired.lines[(0 : Fin 8)].level = .high ∧
      outPin (fired.withPending [.queryTime]) 0 = some .low ∧ outPin fired 0 = some .high ∧
      (tick fired).shown[(0 : Fin 8)] = .high := by decide +kernel

/-- A trailing edge that runs out as an entry of its line is reached may expire before the firing or after it (R117). -/
theorem test_expiryBetweenFirings :
    let s := setLine 0 ⟨.scheduled, .low, .high, some 0⟩ (atTime 9 0 (withArmed ⟨9, 0⟩ State.reset))
    s.firable.map (fun a => (nextOnLine s a).length) = [2] ∧
      (endPulse 0 s).firable.map (fun a => (nextOnLine (endPulse 0 s) a).length) = [1] := by decide +kernel

/-- The four entries of Table 5.4 just before the step, as Table 5.5 lists them. -/
def beforeForwardStep : State :=
  let entry (handle : Nat) (line : Fin 8) (action : Action) (start : StartSpec) (rep : Option RepeatSpec)
      (late : LatePolicy) (remaining occurrences : Nat) : Entry :=
    ⟨⟨handle, line, action, start, rep, late, true, true⟩, remaining, occurrences, handle + 80⟩
  setArmed
    [⟨entry 21 0 .rise (.timed ⟨7002, 0⟩) none .fire 0 0, ⟨7002, 0⟩, 0⟩,
      ⟨entry 24 3 (.pulse 12500) (.triggered 0 187500000 .every) (some ⟨25000000, 3⟩) .skip 3 0, ⟨7002, 17500000⟩, 0⟩,
      ⟨entry 22 1 (.pulse 125000) (.timed ⟨7003, 0⟩) none .skip 0 0, ⟨7003, 0⟩, 0⟩,
      ⟨entry 23 2 .toggle (.timed ⟨7001, 0⟩) (some ⟨250000000, 5⟩) .fire 4 1, ⟨7003, 0⟩, 0⟩]
    (atTime 7001 50000000 (allLines .scheduled State.reset))

/-- The forward step of section 5.7: what it leaves (Table 5.7), and its records in order (Table 5.6). -/
theorem test_forwardStep :
    let t := after .stepTime (asking 0x07#8 (0#8 :: timeBytes ⟨5, 0⟩) beforeForwardStep)
    t.sched.armed.map (fun a => (a.handle, a.due, a.entry.remaining, a.entry.occurrences)) = [(23, ⟨7007, 0⟩, 2, 2)] ∧
      t.sched.waiting[(0 : Fin 4)].map (fun e => (e.desc.handle, e.remaining)) = [(24, 3)] ∧
      t.lines[(0 : Fin 8)].level = .high ∧ t.lines[(2 : Fin 8)].level = .high ∧ t.lines[(3 : Fin 8)].level = .low ∧
      t.attn.stateOf .schedule = .raised ∧
      t.journal.records.map Record.body =
        [.era 1#16 .step, .fired 21 0 .rise true false 1, .removed 21 .complete 1, .removed 22 .skipped 0,
          .fired 23 2 .toggle true false 2] := by decide +kernel

/-! ## Every statement with hypotheses is met somewhere -/

/-- The command's request is at the head of the queue, and the dispatcher takes it. -/
def isHead (kind : Byte) (payload : List Byte) (s : State) : Prop :=
  headRequest (asking kind payload s) = some (request kind payload)

theorem witness_head (kind : Byte) (payload : List Byte) (s : State) (running : s.run = .running)
    (nothingWaits : s.link.outbound.any OutFrame.isDispatched = false) (noReset : s.link.partPending = false) :
    isHead kind payload s := by
  simp [isHead, headRequest, dispatcherReady, asking, running, nothingWaits, noReset]

theorem witness_StepTakesTheFrontCommand :
    (State.reset.withPending [.queryTime, .powerOff]).pending = .queryTime :: [.powerOff] := by decide +kernel

theorem witness_StepWithNothingWaiting :
    State.reset.pending = [] ∧ due (quietLink State.reset) = [] ∧ due State.reset = [.frameTransmitStart] ∧
      due { State.reset with ts := { Timescale.reset with boundaryDue := true } }
        = [.secondBoundary, .frameTransmitStart] := by decide +kernel

/-- Each timer with nothing left brings its expiry, and with one tick left brings none; an entry that is reached and first on
its line brings its firing. -/
theorem test_dueTimersAndFirings :
    let quiet := quietLink State.reset
    let timed (left : Nat) : List State :=
      [setTs { Timescale.reset with hold := some left } quiet,
        setMon .b { Monitor.reset with state := .suspect, window := some left } quiet,
        setMon .a { Monitor.reset with state := .qualifying, silence := some left } quiet,
        setMon .a { Monitor.reset with state := .failed, holdOff := some left } quiet,
        setDisc { Discipline.reset with state := .holdover, holdoverTimer := some (75000000000 - left) } quiet,
        setLine 3 ⟨.scheduled, .high, .low, some left⟩ quiet, setCap 2 ⟨.both, 9, false, true, some left, .high⟩ quiet]
    (timed 0).map due =
        [[.anchorHoldEnd], [.stepWindowExpiry .b], [.silenceTimerExpiry .a], [.holdOffTimerExpiry .a],
          [.holdoverTimerExpiry], [.trailingEdgeExpiry 3], [.deadTimeExpiry 2]] ∧
      (timed 1).map due = [[], [], [], [], [], [], []] ∧
      due (withArmed ⟨9, 5⟩ (atTime 9 5 quiet)) = [.firing 5] ∧ due (withArmed ⟨9, 5⟩ (atTime 9 4 quiet)) = [] ∧
      (due (setArmed [⟨riseOnce 5 (.timed ⟨9, 5⟩), ⟨9, 5⟩, 0⟩, ⟨riseOnce 6 (.timed ⟨9, 5⟩), ⟨9, 5⟩, 0⟩]
        (atTime 9 5 quiet))) = [.firing 5] := by decide +kernel

/-- The row of the request at the head, and the start of a frame; none while a reply waits, in a break or out of running. -/
theorem test_dueTakesAndFrames :
    let quiet := quietLink State.reset
    let queued (frame : OutFrame) (s : State) : State := { s with link := { s.link with outbound := [frame] } }
    due (asking 0x03#8 [] quiet) = [.queryTime] ∧ due (asking 0x17#8 [] quiet) = [.unknownKind] ∧
      due (asking 0x00#8 [] quiet) = [.unknownKind] ∧ due (asking 0x16#8 [1#8] quiet) = [.ackAttention] ∧
      due (asking 0x02#8 [3#8] quiet) = [.resetPart] ∧ due (asking 0x02#8 [4#8] quiet) = [.resetSchedule] ∧
      due (asking 0x09#8 [1#8, 2#8] quiet) = [.pathControlDisable] ∧
      due (asking 0x09#8 [2#8, 2#8] quiet) = [.pathControlRestart] ∧
      due (asking 0x03#8 [] (queued (.reply .dispatched []) quiet)) = [.frameTransmitStart] ∧
      due (asking 0x03#8 [] (queued (.reply .onReceipt []) quiet)) = [.queryTime, .frameTransmitStart] ∧
      due { State.reset with link := { Link.reset with inBreak := true } } = [] ∧
      due (sending false false State.reset) = [] ∧ due { State.reset with run := .inReset } = [] := by decide +kernel

theorem witness_EveryCommandAnswersANextState :
    { State.reset with run := .off }.run ≠ .running ∧ { State.reset with run := .inReset }.run ≠ .running ∧
      (∀ pins, Instr.queryTime ≠ .powerOn pins) ∧ Instr.queryTime ≠ .resetNLow ∧
      (∀ pins, Instr.queryTime ≠ .resetNRelease pins) ∧ Instr.queryTime ≠ .powerOff :=
  ⟨by decide, by decide, nofun, nofun, nofun, nofun⟩

theorem witness_PowerAndResetPin :
    State.reset.run ≠ .off ∧ State.reset.run ≠ .inReset ∧ { State.reset with run := .off }.run = .off ∧
      { State.reset with run := .inReset }.run = .inReset := by decide +kernel

theorem witness_PartResetCompletes :
    State.reset.run = .running ∧ (sending true false State.reset).link.tx = some ⟨[], true, false⟩ ∧
      (sending true true State.reset).link.tx = some ⟨[], true, true⟩ ∧
      (windDown State.reset).link.partPending = true ∧ (windDown State.reset).link.inBreak = false ∧
      sendingPartReply (windDown State.reset).link = false ∧
      (sending true false (windDown State.reset)).link.tx = some ⟨[], true, false⟩ := by decide +kernel

/-- The four scopes, and a payload at each edge of the malformed ones: for ResetScheduleEmptiesTheSchedule,
ResetJournalEmptiesTheJournal, ResetTimescaleUnsetsTheTime and ResetPartWindsTheLinkDown. -/
theorem witness_scopes :
    (∀ scope ∈ [0x00#8, 0x01#8, 0x02#8, 0x03#8], isHead 0x02#8 [scope] State.reset) ∧
      isHead 0x02#8 [] State.reset ∧ isHead 0x02#8 [0x04#8] State.reset ∧ 3 < byteAt 0 [0x04#8] :=
  ⟨fun _ _ => witness_head _ _ _ rfl rfl rfl, witness_head _ _ _ rfl rfl rfl, witness_head _ _ _ rfl rfl rfl,
    by decide⟩

theorem witness_QueriesReportAndChangeNothing :
    ∀ kind ∈ [0x01#8, 0x03#8, 0x0A#8, 0x0F#8, 0x12#8],
      isHead kind [] State.reset ∧ isHead kind [0#8] State.reset :=
  fun _ _ => ⟨witness_head _ _ _ rfl rfl rfl, witness_head _ _ _ rfl rfl rfl⟩

/-- A full schedule with the greatest handle, armed and waiting, and where its handles stand. -/
theorem witness_QueriesReportAndChangeNothing_list :
    let c : Schedule :=
      ⟨List.replicate 62 ⟨riseOnce 4095 (.timed ⟨9, 0⟩), ⟨9, 0⟩, 0⟩,
        #v[[], [riseOnce 6 (.triggered 1 125 .once)], [], [riseOnce 1 (.triggered 3 125 .once)]], 64⟩
    c.entries.length = 64 ∧ (∀ e ∈ c.entries, e.desc.handle ≤ 4095) ∧ (scheduleReport c).length = 130 ∧
      numAt 2 2 (scheduleReport c) = 4095 ∧ numAt 126 2 (scheduleReport c) = 6 ∧
      numAt 128 2 (scheduleReport c) = 1 := by decide +kernel

/-- The greatest values that fit their fields, and a trailing edge with 0 ticks left. -/
theorem witness_ReportsHaveTheirLayout :
    (fullJournal true 1 State.reset).journal.records.length ≤ 256 ∧ TimeValue.Valid ⟨137438953471, 124999999⟩ ∧
      beNat (beBytes 2 65535) = 65535 ∧ beNat (beBytes 2 65536) = 0 ∧
      (setLine 3 ⟨.scheduled, .low, .high, some 0⟩ State.reset).lines[(3 : Fin 8)].trailing = some 0 := by
  unfold TimeValue.Valid; decide +kernel

/-- A record of each kind, with values at the ends of their ranges. -/
theorem witness_ReportsHaveTheirLayout_records :
    ∀ body ∈ [RecordBody.capture 3 .fall .set .holdover, .fired 4095 7 (.pulse 1) true false 65535,
        .removed 4095 .withdrawn 65535, .era 65535#16 .unset, .path .b .good .failed (some .skew) true,
        .discipline .locked .free none, .gap 65535 ⟨137438953471, 124999999⟩],
      (recordBytes ⟨65535#16, 0#16, ⟨137438953471, 124999999⟩, body⟩).length = 24 ∧
      timeAt 5 (recordBytes ⟨65535#16, 0#16, ⟨137438953471, 124999999⟩, body⟩) = ⟨137438953471, 124999999⟩ ∧
      byteAt 23 (recordBytes ⟨65535#16, 0#16, ⟨0, 0⟩, body⟩) = 0 := by decide +kernel

/-- The longest seconds value, and the first one beyond it. -/
theorem witness_LoadAndSlewRequests_load :
    isHead 0x04#8 [0x1F#8, 0xFF#8, 0xFF#8, 0xFF#8, 0xFF#8] State.reset ∧
      beNat [0x1F#8, 0xFF#8, 0xFF#8, 0xFF#8, 0xFF#8] = 137438953471 ∧
      isHead 0x04#8 [0x20#8, 0#8, 0#8, 0#8, 0#8] State.reset ∧ beNat [0x20#8, 0#8, 0#8, 0#8, 0#8] = 137438953472 ∧
      isHead 0x04#8 [] State.reset ∧ isHead 0x05#8 [] State.reset ∧ isHead 0x05#8 [0#8] State.reset :=
  ⟨witness_head _ _ _ rfl rfl rfl, by decide +kernel, witness_head _ _ _ rfl rfl rfl, by decide +kernel,
    witness_head _ _ _ rfl rfl rfl, witness_head _ _ _ rfl rfl rfl, witness_head _ _ _ rfl rfl rfl⟩

/-- The greatest magnitude that ADJUST TIME takes, in both signs, and the ones that each of its limits refuses. -/
theorem witness_LoadAndSlewRequests_slew :
    let most := 1#8 :: durationBytes 62500000
    isHead 0x06#8 most State.reset ∧ payloadAmount most = -62500000 ∧ (timeAt 1 most).tick < 125000000 ∧
      (timeAt 1 most).ticks ≤ 62500000 ∧ (State.reset.ts.remainingSlew + payloadAmount most).natAbs ≤ 62500000 ∧
      (1 + payloadAmount (0#8 :: durationBytes 62500000)).natAbs = 62500001 ∧
      (timeAt 1 (0#8 :: durationBytes 62500001)).ticks = 62500001 ∧
      (timeAt 1 (0#8 :: timeBytes ⟨0, 125000000⟩)).tick = 125000000 ∧ 1 < byteAt 0 [2#8] :=
  ⟨witness_head _ _ _ rfl rfl rfl, by decide +kernel⟩

/-- STEP TIME in each time and discipline state, to 0:0 and to the last point, one tick beyond each, and by zero. -/
theorem witness_StepTimeMovesTheTime :
    (∀ st : DiscState, isHead 0x07#8 (0#8 :: durationBytes 1) (inDiscipline st none (atTime 3 4 State.reset)) ∧
      (inDiscipline st none (atTime 3 4 State.reset)).disc.state = st) ∧
      isHead 0x07#8 (0#8 :: durationBytes 1) State.reset ∧ State.reset.ts.timeState = .unset ∧
      (atTime 3 4 State.reset).ts.timeState = .set ∧
      ((atTime 3 4 State.reset).ts.now.lin : Int) + payloadAmount (1#8 :: timeBytes ⟨3, 4⟩) = 0 ∧
      ((atTime 3 4 State.reset).ts.now.lin : Int) + payloadAmount (1#8 :: timeBytes ⟨3, 5⟩) = -1 ∧
      ((atTime 3 4 State.reset).ts.now.lin : Int) + payloadAmount (0#8 :: timeBytes ⟨137438953468, 124999995⟩)
        = (wrapLin : Int) - 1 ∧
      ((atTime 3 4 State.reset).ts.now.lin : Int) + payloadAmount (0#8 :: timeBytes ⟨137438953468, 124999996⟩)
        = (wrapLin : Int) ∧
      (timeAt 1 (0#8 :: timeBytes ⟨0, 0⟩)).ticks = 0 ∧ (timeAt 1 (0#8 :: timeBytes ⟨3, 4⟩)).tick < 125000000 ∧
      (timeAt 1 (0#8 :: timeBytes ⟨0, 125000000⟩)).tick = 125000000 := by
  refine ⟨fun st => ⟨witness_head _ _ _ rfl rfl rfl, rfl⟩, witness_head _ _ _ rfl rfl rfl, ?_⟩
  decide +kernel

/-- A SET PATH CONFIG for path B with these fields, at one step a second. -/
def sentPath (tolerance skew qualify recover fail restart holdOff : Nat) : List Byte :=
  [1#8, 0#8] ++ beBytes 4 tolerance ++ beBytes 2 skew ++ beBytes 1 qualify ++ beBytes 1 recover ++ beBytes 1 fail
    ++ beBytes 1 restart ++ beBytes 2 holdOff

/-- The least and the greatest value of every field, and for each field one below and one beyond. -/
theorem witness_SetPathConfigNeedsADisabledPath :
    isHead 0x08#8 (sentPath 31250000 12500 15 15 15 1 3600) (setMon .b { Monitor.reset with state := .disabled } State.reset) ∧
      (State.reset.mon .b).state ≠ .disabled ∧
      (∀ f ∈ [((31250000, 12500, 15), (15, 15, true, 3600)), ((1, 1, 1), (1, 1, false, 1)),
          ((0, 1, 1), (1, 1, false, 1)), ((1, 0, 1), (1, 1, false, 1)), ((1, 1, 0), (1, 1, false, 1)),
          ((1, 1, 1), (0, 1, false, 1)), ((1, 1, 1), (1, 0, false, 1)), ((1, 1, 1), (1, 1, false, 0)),
          ((31250001, 1, 1), (1, 1, false, 1)), ((1, 12501, 1), (1, 1, false, 1)), ((1, 1, 16), (1, 1, false, 1)),
          ((1, 1, 1), (16, 1, false, 1)), ((1, 1, 1), (1, 16, false, 1)), ((1, 1, 1), (1, 1, false, 3601))],
        readPathConfig (sentPath f.1.1 f.1.2.1 f.1.2.2 f.2.1 f.2.2.1 f.2.2.2.1.toNat f.2.2.2.2)
          = some (.b, ⟨0, f.1.1, f.1.2.1, f.1.2.2, f.2.1, f.2.2.1, f.2.2.2.1, f.2.2.2.2⟩)) ∧
      readPathConfig (sentPath 1 1 1 1 1 2 1) = none ∧ byteAt 11 (sentPath 1 1 1 1 1 2 1) = 2 ∧
      125000000 / 10 ^ (0 : Fin 7).val / 4 = 31250000 ∧ 125000000 / 10 ^ (6 : Fin 7).val / 4 = 31 :=
  ⟨witness_head _ _ _ rfl rfl rfl, by decide +kernel⟩

theorem witness_PathControlMovesThePath :
    (∀ (p : Path) (op : Byte) (st : PathState),
      isHead 0x09#8 [pathCode (some p), op] (watching st p State.reset) ∧
        ((watching st p State.reset).mon p).state = st) ∧
      1 < byteAt 0 [2#8, 0#8] ∧ 2 < byteAt 1 [0#8, 3#8] :=
  ⟨fun p _ _ => by cases p <;> exact ⟨witness_head _ _ _ rfl rfl rfl, rfl⟩, by decide +kernel⟩

/-- A discipline configuration at its greatest values and one beyond, and the holdover timer on both sides of a limit. -/
theorem witness_SetDisciplineConfigTakesEffect :
    let sent (limit slew rate : Nat) : List Byte :=
      [0#8, 1#8] ++ beBytes 4 limit ++ [0#8] ++ beBytes 4 slew ++ beBytes 2 rate
    isHead 0x0B#8 (sent 86400 62500000 6250) State.reset ∧
      readDiscConfig (sent 86400 62500000 6250) = some ⟨.preferA, true, 86400, .jumpOverLimit, 62500000, 6250⟩ ∧
      readDiscConfig (sent 86401 62500000 6250) = some ⟨.preferA, true, 86401, .jumpOverLimit, 62500000, 6250⟩ ∧
      readDiscConfig (sent 0 0 1) = some ⟨.preferA, true, 0, .jumpOverLimit, 0, 1⟩ ∧
      readDiscConfig (sent 1 0 1) = some ⟨.preferA, true, 1, .jumpOverLimit, 0, 1⟩ ∧ readDiscConfig [] = none ∧
      (∀ count ∈ [124999999, 125000000],
        { Discipline.reset with state := .holdover, holdoverTimer := some count }.holdoverTimer = some count) ∧
      Discipline.reset.holdoverTimer = none ∧ Discipline.reset.state ≠ .holdover ∧
      (inDiscipline .holdover none State.reset).disc.state = .holdover :=
  ⟨witness_head _ _ _ rfl rfl rfl, by decide +kernel⟩

/-- HOLDOVER at its limit of 600 s to the tick, with path A GOOD and left out by the policy: the same limit with a policy
that allows the path brings a gain together with the expiry (R62); one tick earlier it does not. -/
theorem witness_SetDisciplineConfigTakesEffect_meets :
    let held (count : Nat) : State :=
      setDisc { Discipline.reset with
        config := { DiscConfig.reset with policy := .onlyB }, state := .holdover, holdoverTimer := some count }
        (watching .good .a State.reset)
    let stored (count : Nat) : State :=
      setDisc { (held count).disc with config := { DiscConfig.reset with policy := .onlyA } } (held count)
    chosenPath (stored 75000000000) = some .a ∧ gainMeetsExpiry 600 (stored 75000000000) = true ∧
      gainMeetsExpiry 600 (stored 74999999999) = false ∧ gainMeetsExpiry 601 (stored 75000000000) = false := by decide +kernel

/-! ### The schedule -/

/-- What a request says, read and checked, so that an admission passes the six checks. -/
theorem passesSixChecks_of_read (s : State) (payload : List Byte) (d : Descriptor)
    (head : isHead 0x0C#8 payload s) (set : s.ts.timeState = .set) (room : s.sched.entries.length < 64)
    (mode : s.lines[d.line].mode = .scheduled)
    (read : ((readDescriptor payload).any fun raw =>
      !s.sched.holds raw.handle && decide (raw.checked = some d)) = true) :
    PassesSixChecks (asking 0x0C#8 payload s) (request 0x0C#8 payload) d := by
  refine ⟨head, rfl, set, room, mode, ?_⟩
  obtain ⟨raw, present, good⟩ := (Option.any_eq_true _ _).mp read
  simp only [Bool.and_eq_true, Bool.not_eq_true', decide_eq_true_eq] at good
  exact ⟨raw, present, good.1, good.2⟩

/-- Handle 4095 and 1, a pulse of the greatest width and period, a triggered start at both ends of its range. -/
theorem witness_AdmissionChecksInOrder :
    let good := sentEntry 4095 3#8 1#8 1#8 1#8 1#8 ⟨1, 0⟩ ⟨86400, 0⟩ ⟨86400, 0⟩ 65535
    let low := sentEntry 1 3#8 1#8 1#8 1#8 1#8 ⟨0, 1⟩ ⟨0, 125⟩ ⟨0, 1250⟩ 0
    let bad := sentEntry 4096 0#8 0#8 0#8 0#8 0#8 ⟨0, 0⟩ ⟨9, 0⟩ ⟨0, 0⟩ 0
    let checked (payload : List Byte) := (readDescriptor payload).bind RawDescriptor.checked
    isHead 0x0C#8 good (atTime 3 4 State.reset) ∧ good.length = 38 ∧
      (checked good).map (fun d => (d.handle, d.start, d.action))
        = some (4095, .triggered 1 10800000000000 .every, .pulse 125000000) ∧
      (checked low).map (fun d => (d.handle, d.start, d.action)) = some (1, .triggered 1 125 .every, .pulse 1) ∧
      (readDescriptor bad).isSome = true ∧ checked bad = none ∧ readDescriptor [] = none ∧
      (withArmed ⟨9, 0⟩ State.reset).sched.holds 5 = true ∧ State.reset.sched.holds 5 = false ∧
      (setArmed (List.replicate 64 ⟨riseOnce 5 (.timed ⟨9, 0⟩), ⟨9, 0⟩, 0⟩) State.reset).sched.entries.length = 64 ∧
      State.reset.lines[(0 : Fin 8)].mode ≠ .scheduled :=
  ⟨witness_head _ _ _ rfl rfl rfl, by decide +kernel⟩

/-- Tick fields of 125,000,000 and a trigger line of 4, each alone out of range; a spare trigger mode in a TIMED start. -/
theorem witness_AdmissionChecksInOrder_ranges :
    let checked (payload : List Byte) := ((readDescriptor payload).bind RawDescriptor.checked).isSome
    let read := (readDescriptor (sentEntry 1 3#8 1#8 1#8 1#8 1#8 ⟨0, 1⟩ ⟨0, 125⟩ ⟨0, 1250⟩ 0)).getD
      ⟨0, 0, 0, 0, none, false, .fire, false, false, ⟨0, 0⟩, ⟨0, 0⟩, ⟨0, 0⟩, 0⟩
    read.triggerLine = 1 ∧ read.checked.isSome = true ∧ { read with triggerLine := 4 }.checked = none ∧
      { read with line := 8 }.checked = none ∧
      checked (sentEntry 5 3#8 0#8 0#8 0#8 0#8 ⟨0, 125000000⟩ ⟨9, 0⟩ ⟨0, 0⟩ 0) = false ∧
      checked (sentEntry 5 0#8 0#8 0#8 0#8 0#8 ⟨0, 0⟩ ⟨9, 125000000⟩ ⟨0, 0⟩ 0) = false ∧
      checked (sentEntry 5 0#8 0#8 0#8 0#8 1#8 ⟨0, 0⟩ ⟨9, 0⟩ ⟨0, 125000000⟩ 0) = false ∧
      checked (sentEntry 5 0#8 0#8 0#8 9#8 0#8 ⟨0, 125000000⟩ ⟨9, 0⟩ ⟨0, 125000000⟩ 0) = true := by decide +kernel

/-- On time by one tick, and triggered. -/
theorem witness_AdmissionTakesEffect_onTime :
    (∃ s r d, PassesSixChecks s r d ∧ d.start = .timed ⟨9, 1⟩ ∧ s.ts.now.lin < (⟨9, 1⟩ : TimeValue).lin) ∧
      (∃ s r d, PassesSixChecks s r d ∧ d.start = .triggered 1 125 .once) :=
  ⟨⟨_, _, ⟨5, 0, .rise, .timed ⟨9, 1⟩, none, .fire, true, true⟩,
      passesSixChecks_of_read (atTime 9 0 (allLines .scheduled State.reset))
        (sentEntry 5 0#8 0#8 0#8 0#8 0#8 ⟨0, 0⟩ ⟨9, 1⟩ ⟨0, 0⟩ 0) _ (witness_head _ _ _ rfl rfl rfl) rfl
        (by decide +kernel) (by decide +kernel) (by decide +kernel), rfl, by decide +kernel⟩,
    ⟨_, _, ⟨5, 0, .rise, .triggered 1 125 .once, none, .fire, true, true⟩,
      passesSixChecks_of_read (atTime 9 0 (allLines .scheduled State.reset))
        (sentEntry 5 0#8 1#8 0#8 0#8 0#8 ⟨0, 0⟩ ⟨0, 125⟩ ⟨0, 0⟩ 0) _ (witness_head _ _ _ rfl rfl rfl) rfl
        (by decide +kernel) (by decide +kernel) (by decide +kernel), rfl⟩⟩

/-- Late at the due time itself, without and with a repeat; of a burst whose third occurrence is due now, three
occurrences are passed. -/
theorem witness_AdmissionTakesEffect_late :
    (∃ s r d, PassesSixChecks s r d ∧ d.start = .timed ⟨9, 0⟩ ∧ (⟨9, 0⟩ : TimeValue).lin ≤ s.ts.now.lin ∧
      d.rep = none ∧ d.latePolicy = .skip) ∧
    (∃ s r d, PassesSixChecks s r d ∧ d.start = .timed ⟨7, 0⟩ ∧ (⟨7, 0⟩ : TimeValue).lin ≤ s.ts.now.lin ∧
      d.rep = some ⟨125000000, 3⟩ ∧ (s.ts.now.lin - (⟨7, 0⟩ : TimeValue).lin) / 125000000 + 1 = 3 ∧
      d.latePolicy = .fire) :=
  ⟨⟨_, _, ⟨5, 0, .rise, .timed ⟨9, 0⟩, none, .skip, true, true⟩,
      passesSixChecks_of_read (atTime 9 0 (allLines .scheduled State.reset))
        (sentEntry 5 0#8 0#8 1#8 0#8 0#8 ⟨0, 0⟩ ⟨9, 0⟩ ⟨0, 0⟩ 0) _ (witness_head _ _ _ rfl rfl rfl) rfl
        (by decide +kernel) (by decide +kernel) (by decide +kernel), rfl, by decide +kernel, rfl, rfl⟩,
    ⟨_, _, ⟨5, 0, .rise, .timed ⟨7, 0⟩, some ⟨125000000, 3⟩, .fire, true, true⟩,
      passesSixChecks_of_read (atTime 9 0 (allLines .scheduled State.reset))
        (sentEntry 5 0#8 0#8 0#8 0#8 1#8 ⟨0, 0⟩ ⟨7, 0⟩ ⟨1, 0⟩ 3) _ (witness_head _ _ _ rfl rfl rfl) rfl
        (by decide +kernel) (by decide +kernel) (by decide +kernel), rfl, by decide +kernel, rfl, by decide +kernel,
      rfl⟩⟩

theorem witness_WithdrawAndQueryEntry :
    (∀ kind ∈ [0x0D#8, 0x0E#8], isHead kind [0#8, 5#8] (withArmed ⟨9, 0⟩ State.reset) ∧
      isHead kind [] State.reset) ∧
      (withArmed ⟨9, 0⟩ State.reset).sched.find (beNat [0#8, 5#8]) = some (riseOnce 5 (.timed ⟨9, 0⟩), some ⟨9, 0⟩) ∧
      (withWaiting State.reset).sched.find 6 = some (riseOnce 6 (.triggered 1 125 .once), none) ∧
      State.reset.sched.find 5 = none :=
  ⟨fun _ _ => ⟨witness_head _ _ _ rfl rfl rfl, witness_head _ _ _ rfl rfl rfl⟩, by decide +kernel⟩

/-- What QUERY ENTRY reports of a TIMED entry with every part but the trigger, and of a TRIGGERED one with none but it. -/
theorem witness_WithdrawAndQueryEntry_report :
    let timed : Entry :=
      ⟨⟨4095, 7, .pulse 125000000, .timed ⟨137438953471, 124999999⟩, some ⟨10800000000000, 65535⟩, .skip, true, false⟩,
        65535, 65535, 2 ^ 32 + 5⟩
    let triggered : Entry := riseOnce 6 (.triggered 1 125 .every)
    let b := entryReport timed (some ⟨137438953471, 124999999⟩)
    let c := entryReport triggered none
    b.length = 56 ∧ byteAt 38 b = 11 ∧ timeAt 12 b = ⟨1, 0⟩ ∧ timeAt 28 b = ⟨86400, 0⟩ ∧
      timeAt 40 b = ⟨137438953471, 124999999⟩ ∧ numAt 52 4 b = 5 ∧ byteAt 38 c = 4 ∧ byteAt 5 c = 1 ∧
      byteAt 6 c = 1 ∧ timeAt 20 c = ⟨0, 125⟩ ∧ byteAt 39 c = 1 ∧ 10800000000000 < wrapLin := by decide +kernel

/-! ### The lines, the journal and the attention unit -/

/-- Lines 7 and 8, a held line and a free one, a MANUAL line and one that is not. -/
theorem witness_LineAndCaptureRequestsActOnTheirLine_lines :
    isHead 0x10#8 [7#8, 1#8, 1#8] State.reset ∧ readLineConfig [7#8, 1#8, 1#8] = some (7, .scheduled, .high) ∧
      readLineConfig [8#8, 1#8, 1#8] = some (8, .scheduled, .high) ∧
      (withArmed ⟨9, 0⟩ State.reset).sched.targets 0 = true ∧ (withArmed ⟨9, 0⟩ State.reset).sched.targets 7 = false ∧
      readDriveLine [7#8, 1#8] = some (7, .high) ∧ readDriveLine [8#8, 1#8] = some (8, .high) ∧
      (allLines .manual State.reset).lines[(7 : Fin 8)].mode = .manual ∧ State.reset.lines[(7 : Fin 8)].mode ≠ .manual ∧
      2 < byteAt 1 [0#8, 3#8, 0#8] ∧ 1 < byteAt 1 [0#8, 2#8] :=
  ⟨witness_head _ _ _ rfl rfl rfl, by decide +kernel⟩

/-- Lines 3 and 4, the longest dead time and one tick more. -/
theorem witness_LineAndCaptureRequestsActOnTheirLine_captures :
    let sent (line : Byte) (dead : Nat) : List Byte := [line, 3#8] ++ durationBytes dead ++ [1#8, 1#8]
    isHead 0x13#8 (sent 3#8 1250000) State.reset ∧
      readCaptureConfig (sent 3#8 1250000) = some (3, .both, ⟨0, 1250000⟩, true, true) ∧
      readCaptureConfig (sent 3#8 1250001) = some (3, .both, ⟨0, 1250001⟩, true, true) ∧
      readCaptureConfig (sent 4#8 0) = some (4, .both, ⟨0, 0⟩, true, true) ∧ readCaptureConfig [] = none :=
  ⟨witness_head _ _ _ rfl rfl rfl, rfl, rfl, rfl, rfl⟩

/-- A release that brings the fill, with its GAP record, to the threshold, and one that passes it. -/
theorem witness_ReadJournalReleasesAndReturns_level :
    (∀ n ∈ [9, 8],
      ((fullJournal true 1 State.reset).journal.records.drop n).length + 1 = 257 - n ∧ 1 ≤ n) ∧
      (raise .journalLevel (quietLink State.reset)).link.outbound = [] ∧
      queueAfterRaise .link State.reset.attn [] = [.notice] ∧
      queueAfterRaise .link State.reset.attn [.announce .power] = [.announce .power] ∧
      queueAfterRaise .journalLevel State.reset.attn [] = [] := by decide +kernel

/-- Counts at and beyond their bounds, with nine records delivered, in and out of an overrun. -/
theorem witness_ReadJournalReleasesAndReturns :
    isHead 0x14#8 [9#8, 9#8] (fullJournal true 1 State.reset) ∧ byteAt 0 [9#8, 9#8] = 9 ∧ byteAt 1 [9#8, 9#8] = 9 ∧
      byteAt 0 [10#8, 1#8] = 10 ∧ byteAt 1 [0#8, 0#8] = 0 ∧ byteAt 1 [0#8, 10#8] = 10 ∧
      { Journal.reset with delivered := 9 }.delivered = 9 ∧ State.reset.journal.delivered < byteAt 0 [1#8, 1#8] ∧
      (fullJournal true 1 State.reset).journal.overrun = true ∧
      (fullJournal false 0 State.reset).journal.overrun = false :=
  ⟨witness_head _ _ _ rfl rfl rfl, by decide +kernel⟩

/-- Thresholds 0, 1, 256 and 257, a fill at a lowered threshold, and a RAISED kind newly subscribed. -/
theorem witness_AttentionRequestsSubscribeAndQuiet_set :
    isHead 0x15#8 [0x7F#8, 1#8, 0#8] State.reset ∧
      readAttention [0x7F#8, 1#8, 0#8] = some (Vector.replicate 7 true, 256) ∧
      readAttention [0x7F#8, 1#8, 1#8] = some (Vector.replicate 7 true, 257) ∧
      readAttention [0x7F#8, 0#8, 0#8] = some (Vector.replicate 7 true, 0) ∧
      readAttention [0x7F#8, 0#8, 1#8] = some (Vector.replicate 7 true, 1) ∧ readAttention [0x80#8, 0#8, 1#8] = none ∧
      (appendRecord (.era 1#16 .step) State.reset).journal.records.length = 1 ∧
      (appendRecord (.era 1#16 .step) State.reset).journal.threshold = 64 ∧
      (appendRecord (.era 1#16 .step) State.reset).attn.stateOf .journalLevel = .quiet ∧
      (subscribe (Vector.replicate 7 true) 1 (setKind .journalLevel .raised State.reset)).attn.stateOf .journalLevel
        = .raised ∧
      (subscribe (Vector.replicate 7 true) 1 State.reset).attn.isSubscribed .journalLevel = true ∧
      State.reset.attn.isSubscribed .journalLevel = false :=
  ⟨witness_head _ _ _ rfl rfl rfl, by decide +kernel⟩

/-- A new subscription to a RAISED kind, and a JOURNAL_LEVEL raised by a lower threshold, each with its NOTICE; neither while
the notice place is taken. -/
theorem witness_AttentionRequestsSubscribeAndQuiet_notice :
    let notices (s : State) := (setAttention (Vector.replicate 7 true, 1) s).2.link.outbound
    let one := appendRecord (.era 1#16 .step) State.reset
    notices (quietLink (setKind .journalLevel .raised State.reset)) = [.notice] ∧ notices (quietLink one) = [.notice] ∧
      notices one = [.announce .power] ∧ notices (quietLink State.reset) = [] ∧
      (acknowledge (Vector.replicate 7 true) (quietLink (subscribe (Vector.replicate 7 true) 1 one))).2.link.outbound
        = [.notice] := by decide +kernel

theorem witness_AttentionRequestsSubscribeAndQuiet_ack :
    isHead 0x16#8 [0x7F#8] State.reset ∧ readKindSet [0x7F#8] = some (Vector.replicate 7 true) ∧
      readKindSet [0x00#8] = some (Vector.replicate 7 false) ∧ readKindSet [0x80#8] = none :=
  ⟨witness_head _ _ _ rfl rfl rfl, by decide +kernel⟩

/-- KINDs on both sides of the catalogue, and a cache of three and of four entries under an answer. -/
theorem witness_RepliesAreQueuedAndCached :
    (∀ kind, isHead kind [] State.reset) ∧ (request 0x00#8 []).kind.toNat = 0 ∧
      22 < (request 0x17#8 []).kind.toNat ∧ 22 < (request 0xFF#8 []).kind.toNat ∧ (0x01#8).toNat = 1 ∧
      (0x16#8).toNat = 22 ∧
      (∀ n ∈ [3, 4],
        let entry : CacheEntry := ⟨0x01#8, 1#8, 0#16, []⟩
        let s := asking 0x17#8 [] { State.reset with link := { Link.reset with cache := List.replicate n entry } }
        AnsweredWith .unknownKind (request 0x17#8 []) ⟨.unknownKind, [0x17#8]⟩ (dequeueRequest s) s ∧
          (dequeueRequest s).link.cache.length = n) :=
  ⟨fun _ => witness_head _ _ _ rfl rfl rfl, by decide +kernel, by decide +kernel, by decide +kernel, by decide +kernel,
    by decide +kernel, by
      intro n hn
      rcases List.mem_cons.mp hn with rfl | hn
      · exact ⟨rfl, rfl⟩
      · cases List.mem_singleton.mp hn; exact ⟨rfl, rfl⟩⟩

/-! ### The link -/

/-- LEN 1, 2, 242 and 243; a frame of LEN 2 before its last byte but one. -/
theorem witness_ReceiverTakesBytes :
    (receiving .hunt []).run = .running ∧ (receiving .hunt []).link.inBreak = false ∧
      (linkReset State.reset).link.inBreak = true ∧ (receiving .hunt []).link.rx = .hunt ∧
      (receiving .length []).link.rx = .length ∧ 2 ≤ (2#8).toNat ∧ (242#8).toNat ≤ 242 ∧ (1#8).toNat < 2 ∧
      242 < (243#8).toNat ∧ (receiving .body [2#8, 1#8, 9#8]).link.rx = .body ∧
      (receiving .body [2#8, 1#8, 9#8]).link.rxBytes = 2#8 :: [1#8, 9#8] ∧
      [1#8, 9#8].length + 1 < (2#8).toNat + 2 := by decide +kernel

theorem witness_FrameReceivedIsCheckedAndAccepted_bytes :
    (receiving .body [2#8, 1#8, 9#8, 0#8]).link.rxBytes ++ [0#8] = 2#8 :: [1#8, 9#8, 0#8, 0#8] ∧
      [1#8, 9#8, 0#8, 0#8].length = (2#8).toNat + 2 ∧ crcOf [2#8, 1#8, 9#8] ≠ 0#16 ∧
      beNat (([2#8, 1#8, 9#8, 0#8, 0#8].drop 3).take 2) = 0 ∧
      mkFrame 0x01#8 9#8 [] =
        0x9D#8 :: ((receiving .body ((mkFrame 0x01#8 9#8 []).drop 1).dropLast).link.rxBytes
          ++ [(mkFrame 0x01#8 9#8 []).getLast?.getD 0#8]) := by
  decide +kernel

/-- A link with this many requests and replies waiting. -/
def loaded (requests replies : Nat) (s : State) : State :=
  { s with link := { s.link with
    requests := List.replicate requests (request 0x01#8 [])
    outbound := List.replicate replies (.reply .onReceipt []) } }

theorem witness_FrameReceivedIsCheckedAndAccepted_cases :
    (windDown State.reset).link.partPending = true ∧ State.reset.link.partPending = false ∧
      (∃ q ∈ (loaded 1 0 State.reset).link.requests, q.kind = 0x01#8 ∧ q.seq = 7#8 ∧ q.crc = 0#16) ∧
      (∃ e ∈ (after .queryTime (asking 0x03#8 [] State.reset)).link.cache,
        e.kind = 0x03#8 ∧ e.seq = 7#8 ∧ e.crc = 0#16) ∧
      (loaded 4 6 State.reset).link.requests.length = 4 ∧ (loaded 3 7 State.reset).link.requests.length < 4 ∧
      placesUsed (loaded 4 6 State.reset).link = 10 ∧ placesUsed (loaded 4 7 State.reset).link = 11 := by
  decide +kernel

theorem witness_BreakResetsTheLink :
    State.reset.run = .running ∧ State.reset.link.inBreak = false ∧ State.reset.link.partPending = false ∧
      (linkReset State.reset).link.inBreak = true ∧ (linkReset State.reset).run = .running := by decide +kernel

theorem witness_TransmitterSendsTheQueue_begin :
    State.reset.link.tx = none ∧ State.reset.link.outbound = .announce .power :: [] ∧
      (loaded 0 2 State.reset).link.outbound = .reply .onReceipt [] :: [.reply .onReceipt []] ∧
      (raise .link (quietLink State.reset)).link.outbound = .notice :: [] := by decide +kernel

theorem witness_TransmitterSendsTheQueue_end :
    (sending false false State.reset).link.tx = some ⟨[], false, false⟩ ∧
      (sending false true State.reset).link.tx = some ⟨[], false, true⟩ ∧
      (sending false false State.reset).link.outbound ≠ [] ∧
      (sending false false (quietLink State.reset)).link.outbound = [] := by decide +kernel

/-! ### The timescale, firing and jumps -/

/-- Free running before, at and after its adjustments, of either sign and none; anchored; held; at the last tick of a second
and of the seconds count. -/
theorem witness_OneTickMovesTimeAndTimers :
    { State.reset with run := .off }.run ≠ .running ∧ State.reset.run = .running ∧
      TimeValue.Valid ⟨137438953471, 124999999⟩ ∧ TimeValue.Valid ⟨0, 0⟩ ∧
      0 + (0 + 1) * (125000000 - 0) / (((3 : Int) - 1).natAbs + 1) = 41666666 ∧
      0 + (1 + 1) * (125000000 - 0) / (((3 : Int) - 1).natAbs + 1) = 83333333 ∧
      ((0 : Int) - 1 < 0 ∧ ((0 : Int) - 1).natAbs = 1 ∧ 0 + (0 + 1) * (125000000 - 0) / (1 + 1) = 62500000) ∧
      (124999999 : Nat) + 0 < 125000000 ∧ 125000000 ≤ (124999999 : Nat) + 1 ∧ (124999999 : Nat) + 2 - 125000000 = 1 ∧
      (inDiscipline .locked (some .a) State.reset).ts.switchPending = false ∧
      { Timescale.reset with hold := some 0 }.hold = some 0 ∧ Timescale.reset.hold = none := by
  unfold TimeValue.Valid; decide +kernel

/-- A line that drives its pin, with something due, with a command waiting and with neither; a line that is OFF. -/
theorem witness_OutputPinsPresentTheSettledLevel :
    let s := allLines .manual State.reset
    s.run = .running ∧ s.lines[(3 : Fin 8)].mode ≠ .off ∧ due s ≠ [] ∧ (quietLink s).pending = [] ∧
      due (quietLink s) = [] ∧ ((quietLink s).withPending [.queryTime]).pending ≠ [] ∧
      State.reset.lines[(3 : Fin 8)].mode = .off ∧ { s with run := .off }.run ≠ .running := by decide +kernel

/-- A second boundary with this load staged. -/
def atBoundary (load : Option Nat) (s : State) : State :=
  { s with ts := { s.ts with boundaryDue := true, stagedLoad := load } }

/-- From UNSET; to the same second, to an earlier one and to a later one. -/
theorem witness_SecondBoundaryIsCarriedOut :
    (atBoundary none State.reset).ts.boundaryDue = true ∧ State.reset.run = .running ∧
      (∀ v ∈ [8, 9, 10], (atBoundary (some v) (atTime 9 0 State.reset)).ts.stagedLoad = some v) ∧
      (atTime 9 0 State.reset).ts.now.sec = 9 ∧ (atTime 9 0 State.reset).ts.timeState = .set ∧
      (atBoundary (some 9) State.reset).ts.timeState = .unset := by decide +kernel

/-- Anchored, with an amount that folds the phase offset and one that does not; free running, with a fraction that makes a
whole tick and one that does not. -/
theorem witness_SecondBoundaryIsCarriedOut_amounts :
    let anchoredAt (phase left : Int) : State :=
      setTs { Timescale.reset with boundaryDue := true, phaseOffset := phase, slewLeft := left }
        (inDiscipline .locked (some .a) State.reset)
    (carryBoundary (anchoredAt 62500000 1)).ts.phaseOffset = -62499999 ∧
      (carryBoundary (anchoredAt 62499999 1)).ts.phaseOffset = 62500000 ∧
      (anchoredAt 62500000 1).ts.switchPending = false ∧
      (∀ f ∈ [((7 : Int), (125000000 : Int), (1 : Int), (0 : Int)), (7, 124999999, 0, 999999999),
          (-8, -999999999, -1, -999999999)],
        let s := setDisc { Discipline.reset with freqEstimate := f.1 }
          (setTs { Timescale.reset with boundaryDue := true, freqRemainder := f.2.1 } State.reset)
        (carryBoundary s).ts.freeRun = ⟨0, f.2.2.1, 0, 0⟩ ∧ (carryBoundary s).ts.freqRemainder = f.2.2.2) := by
  decide +kernel

theorem witness_HoldPulseAndDeadTimeEnd :
    { Timescale.reset with hold := some 0 }.hold = some 0 ∧
      (setLine 3 ⟨.scheduled, .high, .low, some 0⟩ State.reset).lines[(3 : Fin 8)].trailing = some 0 ∧
      State.reset.lines[(3 : Fin 8)].trailing ≠ some 0 ∧
      (setCap 0 ⟨.both, 9, false, true, some 0, .high⟩ State.reset).caps[(0 : Fin 4)].timer = some 0 ∧
      State.reset.caps[(0 : Fin 4)].timer ≠ some 0 := by decide +kernel

/-- One tick on either side of each end of the second. -/
theorem witness_AnchoringCorrectionMovesTheTime :
    (TimeValue.Valid ⟨9, 124999998⟩ ∧ (124999998 : Int) + 1 < 125000000 ∧ 125000000 ≤ (124999998 : Int) + 2) ∧
      (TimeValue.Valid ⟨9, 1⟩ ∧ (0 : Int) ≤ 1 + -1 ∧ (1 : Int) + -2 < 0) ∧
      (atTime 9 1 State.reset).ts.stagedLoad = none ∧
      (∀ v ∈ [10, 11], (atBoundary (some v) (atTime 9 124999998 State.reset)).ts.stagedLoad = some v) ∧
      (∀ a ∈ (withArmed ⟨10, 0⟩ State.reset).sched.armed,
        a.entry.desc.rep = none ∧ a.entry.desc.action = .rise ∧ a.reached ⟨10, 0⟩ = true) := by
  unfold TimeValue.Valid; decide +kernel

/-- What is left of slew and frequency correction in a combined second: both whole with none of the adjustments made where
they go one way, or before the first tick; none with all of them made where they go one way, or when the second has ended. -/
theorem test_unappliedParts :
    let parts (r : FreeRun) (tick : Nat) (ended : Bool) :=
      (unappliedParts (setTs { Timescale.reset with now := ⟨9, tick⟩, freeRun := r, boundaryDue := ended } State.reset)).1
    parts ⟨5, -3, 0, 0⟩ 7 false = (5, -3) ∧ parts ⟨-5, 3, 0, 0⟩ 7 false = (-5, 3) ∧
      parts ⟨5, -3, 0, 8⟩ 7 false = (0, 0) ∧ parts ⟨-5, 3, 0, 8⟩ 7 false = (0, 0) ∧
      parts ⟨5, 3, 7, 0⟩ 7 false = (5, 3) ∧ parts ⟨5, 3, 0, 2⟩ 0 true = (0, 0) ∧ parts ⟨5, 0, 0, 2⟩ 7 false = (3, 0) ∧
      parts ⟨0, 3, 0, 2⟩ 7 false = (0, 1) ∧ (⟨5, 3, 0, 1⟩ : FreeRun).leftBounds 7 false = (1, 4) := by decide +kernel

/-- A correction at the instant at which an entry is reached, ahead of its firing: forward, it fires with the corrected time;
backward, it is no longer reached, and is again when the time comes there (log entry 33). -/
theorem test_correctAheadOfAFiring :
    let s := withArmed ⟨9, 5⟩ (atTime 9 5 State.reset)
    let back := correct (-2) s
    s.firable.map ArmedEntry.handle = [5] ∧ (correct 2 s).sched.armed = [] ∧
      (correct 2 s).ts.now = ⟨9, 7⟩ ∧ (correct 2 s).lines[(0 : Fin 8)].level = .high ∧
      back.firable = [] ∧ back.sched.armed = s.sched.armed ∧
      (advanceBy 2 back).firable.map ArmedEntry.handle = [5] := by decide +kernel

/-- A forward correction at the instant of a tick wrap, with the boundary and its load still due: the load then keeps the
corrected tick count (log entry 31). -/
theorem test_correctAheadOfTheBoundary :
    let s := correct 5 (atBoundary (some 77) (atTime 10 0 State.reset))
    s.ts.now = ⟨10, 5⟩ ∧ s.ts.boundaryDue = true ∧ (carryBoundary s).ts.now = ⟨77, 5⟩ ∧
      (carryBoundary s).ts.era = 1#16 := by decide +kernel

/-- Carried two ticks across the wrap with a load staged, past an entry due at the boundary: the entry fires at the natural
second, then the load is applied (R99). -/
theorem test_correctAcrossTheWrap :
    let s := withArmed ⟨10, 0⟩ (atTime 9 124999999 State.reset)
    let t := correct 2 { s with ts := { s.ts with stagedLoad := some 77 } }
    t.ts.now = ⟨77, 1⟩ ∧ t.ts.stagedLoad = none ∧ t.sched.armed = [] ∧
      t.journal.records.map (fun r => (r.stamp, r.body)) =
        [(⟨10, 1⟩, .fired 5 0 .rise false false 1), (⟨10, 1⟩, .removed 5 .complete 1), (⟨77, 1⟩, .era 1#16 .load)] := by
  decide +kernel

/-- Offsets at the limit and one tick beyond it, before and after the second. -/
theorem witness_AcquisitionSlewsOrJumps :
    (∀ tick ∈ [125000, 125001, 124875000, 124874999],
      (inDiscipline .acquiring (some .a) (atTime 9 tick State.reset)).ts.now = ⟨9, tick⟩ ∧ tick < 125000000) ∧
      (inDiscipline .acquiring (some .a) State.reset).disc.state = .acquiring ∧
      (inDiscipline .acquiring (some .a) State.reset).disc.config.acquireSlewLimit = 125000 ∧
      (inDiscipline .acquiring (some .a) State.reset).disc.config.acquireMode = .jumpOverLimit ∧
      foldedTick 62500000 = 62500000 ∧ foldedTick 62500001 = -62499999 ∧ foldedTick 124874999 < 0 ∧
      (∀ v ∈ [9, 10, 11], (atBoundary (some v) (atTime 9 124874999 State.reset)).ts.stagedLoad = some v) := by
  decide +kernel

/-- An entry with a repeat, this many firings left. -/
def repeating (count remaining : Nat) : Entry :=
  ⟨⟨5, 0, .toggle, .timed ⟨9, 0⟩, some ⟨125000000, count⟩, .fire, true, true⟩, remaining, 0, 1⟩

/-- Due now: without a repeat, unbounded, with two firings left and with the last. -/
theorem witness_FiringActsAndMovesOn :
    (firableEntry 5 (atTime 9 0 (withArmed ⟨9, 0⟩ State.reset))).map (fun a => a.entry.desc.rep) = some none ∧
      (∀ e ∈ [repeating 0 0, repeating 3 2, repeating 3 1],
        firableEntry 5 (setArmed [⟨e, ⟨9, 0⟩, 0⟩] (atTime 9 0 State.reset)) = some ⟨e, ⟨9, 0⟩, 0⟩) ∧
      firableEntry 5 (atTime 8 124999999 (withArmed ⟨9, 0⟩ State.reset)) = none := by decide +kernel

/-- Behind a reached entry of another line, and behind one of its own line. -/
theorem witness_FiringActsAndMovesOn_order :
    let armed (handle : Nat) (line : Fin 8) : ArmedEntry :=
      ⟨⟨⟨handle, line, .rise, .timed ⟨9, 0⟩, none, .fire, true, true⟩, 0, 0, handle⟩, ⟨9, 0⟩, 0⟩
    let s (first : Fin 8) := setArmed [armed 5 first, armed 6 0] (atTime 9 0 State.reset)
    (s 1).sched.armed = [armed 5 1] ++ armed 6 0 :: [] ∧ (armed 5 1).handle ≠ (armed 6 0).handle ∧
      firableEntry 6 (s 1) = some (armed 6 0) ∧ firableEntry 6 (s 0) = none ∧
      (armed 6 0).due.lin + (armed 6 0).lap * wrapLin ≤ (s 0).ts.now.lin := by decide +kernel

/-- Overtaken at the due time itself, and by one period more; both late policies, and every kind of repeat. -/
theorem witness_OvertakenEntriesMoveOn :
    let armed (e : Entry) : ArmedEntry := ⟨e, ⟨9, 0⟩, 0⟩
    ((1125000000 - (armed (repeating 3 2)).lin) / 125000000).toNat + 1 = 1 ∧
      ((1250000000 - (armed (repeating 3 2)).lin) / 125000000).toNat + 1 = 2 ∧
      (repeating 3 2).desc.latePolicy = .fire ∧ (repeating 0 0).desc.rep = some ⟨125000000, 0⟩ ∧
      { (repeating 3 2).desc with latePolicy := .skip }.latePolicy = .skip ∧
      (riseOnce 5 (.timed ⟨9, 0⟩)).desc.rep = none := by decide +kernel

/-- Due at the new time and one tick later, with and without the wrap between the old time and the new; nothing passed. -/
theorem witness_ForwardJumpOvertakesInOrder :
    let armed (due : TimeValue) (lap : Int) : ArmedEntry := ⟨riseOnce 5 (.timed due), due, lap⟩
    TimeValue.Valid ⟨9, 0⟩ ∧ TimeValue.Valid ⟨137438953471, 124999999⟩ ∧
      overtakenBy ⟨8, 0⟩ ⟨9, 0⟩ [armed ⟨9, 0⟩ 0, armed ⟨9, 1⟩ 0, armed ⟨0, 5⟩ 1] = [armed ⟨9, 0⟩ 0] ∧
      overtakenBy ⟨137438953471, 124999999⟩ ⟨9, 0⟩ [armed ⟨9, 0⟩ 1, armed ⟨9, 1⟩ 1, armed ⟨137438953471, 124999999⟩ 0]
        = [armed ⟨9, 0⟩ 1, armed ⟨137438953471, 124999999⟩ 0] ∧
      overtakenBy ⟨8, 0⟩ ⟨9, 0⟩ [armed ⟨9, 1⟩ 0] = [] := by
  unfold TimeValue.Valid; decide +kernel

/-! ### The monitors and the controller -/

/-- A monitor of 1000 steps a second whose last step was one window before the tick count reached this value. -/
def stepping (st : PathState) (steps : Nat) (pendingMark : Bool) (elapsed : Nat) : State :=
  { State.reset with
    elapsed := elapsed
    monA :=
      { (watching st .a State.reset).monA with
        refInstant := some 1000000000
        stepsSinceMark := steps
        previousMark := some 875125000
        firstMarkPending := pendingMark } }

/-- The first instant at which a step is accepted, and the one before it; the last step that is counted. -/
theorem witness_ReferenceStepIsJudged :
    (stepping .good 999 false 1000124875).run = .running ∧
      (stepping .good 999 false 1000124875).monA.state.watches = true ∧
      (stepping .good 999 false 1000124875).monA.refInstant = some 1000000000 ∧
      (stepping .good 999 false 1000124874).elapsed
        < 1000000000 + (Monitor.reset.config.period - Monitor.reset.config.tolerance) ∧
      1000000000 + (Monitor.reset.config.period - Monitor.reset.config.tolerance)
        ≤ (stepping .good 999 false 1000124875).elapsed ∧
      (stepping .good 999 false 1000124875).monA.stepsSinceMark < Monitor.reset.config.stepsPerSecond ∧
      (inDiscipline .locked (some .a) (stepping .good 999 false 1000124875)).disc.selected = some .a ∧
      (setMon .a { Monitor.reset with state := .failed } State.reset).monA.state = .failed ∧
      State.reset.monA.state = .absent := by decide +kernel

/-- The most recent mark of path A lies this many ticks back. -/
def markAgo (ticks : Nat) (s : State) : State := setMon .a { s.monA with previousMark := some (s.elapsed - ticks) } s

/-- A path in this state whose last step was 124,875 ticks ago, the earliest that is accepted, at its last step but one of a
second whose mark lies this many ticks back. -/
def ending (st : PathState) (ticks : Nat) : State := markAgo ticks (stepping st 999 false 1000124875)

theorem witness_comesOnTime (st : PathState) (ticks : Nat) (watches : st.watches = true) :
    ComesOnTime (ending st ticks).monA (ending st ticks).elapsed := by
  refine ⟨watches, 1000000000, rfl, ?_⟩
  have config : (ending st ticks).monA.config = PathConfig.reset := rfl
  have elapsed : (ending st ticks).elapsed = 1000124875 := rfl
  rw [config, elapsed]
  decide

/-- A second of 124,987,500 to 125,012,500 ticks. -/
theorem witness_faultFree (st : PathState) (ticks : Nat) (low : 124987500 ≤ ticks) (high : ticks ≤ 125012500) :
    FaultFreeMark (ending st ticks).monA (ending st ticks).elapsed := by
  refine .inr ⟨rfl, fun prev h => ?_⟩
  have e : 1000124875 - ticks = prev := Option.some.inj h
  have elapsed : (ending st ticks).elapsed = 1000124875 := rfl
  omega

theorem witness_skewPasses (st : PathState) (ticks : Nat) : SkewPasses .a (ending st ticks) := by
  intro q mark selected
  cases selected

/-- Path B selected, its mark this far from path A's marked step; the skew limit is 125 ticks. -/
def besideB (distance : Nat) (s : State) : State :=
  inDiscipline .locked (some .b)
    (setMon .b { (watching .good .b s).monB with lastAcceptedMark := some (s.elapsed - 125000000 - distance) } s)

/-- Exempt; clean at the shortest and the longest second that passes; after a fault; with too few steps. -/
theorem witness_MarkedStepEndsASecond :
    (∀ ticks ∈ [124987500, 125012500], FaultFreeMark (ending .suspect ticks).monA (ending .suspect ticks).elapsed ∧
      ComesOnTime (ending .suspect ticks).monA (ending .suspect ticks).elapsed ∧
      SkewPasses .a (ending .suspect ticks) ∧ (ending .suspect ticks).monA.faultSinceMark = false ∧
      (ending .suspect ticks).monA.previousMark = some ((ending .suspect ticks).elapsed - ticks)) ∧
      (stepping .qualifying 999 true 1000125000).monA.firstMarkPending = true ∧
      (cleanSecond .a 125000000 (inDiscipline .locked (some .a) (openSecond .a (ending .good 125000000)))).disc.selected
        = some .a ∧
      (ending .suspect 125000000).monA.config.recoverMarks = 2 ∧
      (stepping .qualifying 998 false 1000125000).monA.stepsSinceMark + 1 ≠ Monitor.reset.config.stepsPerSecond := by
  refine ⟨fun ticks h => ⟨?_, witness_comesOnTime _ _ rfl, witness_skewPasses _ _, rfl, rfl⟩, by decide +kernel⟩
  rcases List.mem_cons.mp h with rfl | h
  · exact witness_faultFree _ _ (by decide) (by decide)
  · cases List.mem_singleton.mp h
    exact witness_faultFree _ _ (by decide) (by decide)

/-- The bounds of RATE and of SKEW, and a clean second of each watching state. -/
theorem test_markedStep_bounds :
    (after (.referenceStep .a .high) (ending .suspect 124987500)).monA.cleanCount = 1 ∧
      (after (.referenceStep .a .high) (ending .suspect 125012500)).monA.cleanCount = 1 ∧
      (after (.referenceStep .a .high) (ending .suspect 124987499)).monA.totals.rate = 1 ∧
      (after (.referenceStep .a .high) (ending .good 125012501)).monA.totals.rate = 1 ∧
      (after (.referenceStep .a .high) (besideB 125 (ending .good 125000000))).monA.totals.skew = 0 ∧
      (after (.referenceStep .a .high) (besideB 126 (ending .good 125000000))).monA.totals.skew = 1 := by decide +kernel

/-- An unmarked step too many; RESIDUE and RATE in each watching state, some of which fail the path; SKEW one tick beyond its
limit, at a step without another fault and after one. -/
theorem witness_FaultsAreChargedAtTheStep :
    (ComesOnTime (stepping .good 1000 false 1000124875).monA 1000124875 ∧
      Monitor.reset.config.stepsPerSecond ≤ (stepping .good 1000 false 1000124875).monA.stepsSinceMark) ∧
      (ComesOnTime (stepping .suspect 998 false 1000124875).monA 1000124875 ∧
        (stepping .suspect 998 false 1000124875).monA.stepsSinceMark + 1 ≠ Monitor.reset.config.stepsPerSecond) ∧
      (∀ st : PathState, (ending st 125012501).monA.state = st ∧
        (ending st 125012501).monA.previousMark = some ((ending st 125012501).elapsed - 125012501)) ∧
      ((charge .a .rate (ending .good 124987499)).monA.state = .suspect ∧
        (charge .a .rate (setMon .a { (ending .suspect 124987499).monA with suspectCount := 2 }
          (ending .suspect 124987499))).monA.state = .failed) ∧
      ¬ SkewPasses .a (besideB 126 (ending .good 125000000)) := by
  refine ⟨⟨⟨rfl, 1000000000, rfl, by decide⟩, by decide⟩, ⟨⟨rfl, 1000000000, rfl, by decide⟩, by decide⟩,
    fun _ => ⟨rfl, rfl⟩, by decide +kernel, fun passes => ?_⟩
  obtain ⟨distance, low, high, whole, within⟩ := passes .b 875124749 rfl (by decide) rfl
  have elapsed : (besideB 126 (ending .good 125000000)).elapsed = 1000124875 := rfl
  have limit : ((besideB 126 (ending .good 125000000)).mon .a).config.skewLimit = 125 := rfl
  omega

/-- LOCKED to path A, anchored and between a switch and its measurement; an unmarked step before the last, and a clean and an
unclean marked step. -/
theorem witness_StepsOfTheSelectedPathSteerTheTimescale :
    let s := inDiscipline .locked (some .a) (ending .good 125000000)
    let switching := setTs { s.ts with switchPending := true } s
    s.run = .running ∧ s.disc.state = .locked ∧ s.disc.selected = some .a ∧ s.ts.now.Valid ∧
      s.ts.switchPending = false ∧ switching.ts.switchPending = true ∧ s.monA.state = .good ∧
      ComesOnTime (s.mon .a) s.elapsed ∧ FaultFreeMark (s.mon .a) s.elapsed ∧ (s.mon .a).faultSinceMark = false ∧
      (s.mon .a).stepsSinceMark < (s.mon .a).config.stepsPerSecond ∧
      { s.monA with faultSinceMark := true }.faultSinceMark = true := by
  refine ⟨rfl, rfl, rfl, by unfold TimeValue.Valid; decide +kernel, rfl, rfl, rfl, witness_comesOnTime .good _ rfl,
    witness_faultFree .good _ (by decide) (by decide), rfl, by decide +kernel, rfl⟩

/-- A step of the selected path corrects the time to its nominal position plus the phase offset, with its share of the slew
moved first: step 500 of a second of 1000, half a second in; and a marked step after a switch measures it. -/
theorem test_anchoring :
    let s := inDiscipline .locked (some .a) (atTime 9 62499990 (stepping .good 499 false 1000124875))
    let anchored := after (.referenceStep .a .low) (setTs { s.ts with phaseOffset := 7, slewAmount := 2625, slewLeft := 9 } s)
    let u := inDiscipline .locked (some .a) (atTime 9 40 (ending .good 125000000))
    let measured := after (.referenceStep .a .high)
      (setTs { u.ts with switchPending := true, phaseOffset := 100, remainingSlew := 62499950 } u)
    anchored.ts.now = ⟨9, 62500009⟩ ∧ anchored.ts.phaseOffset = 9 ∧ anchored.ts.slewLeft = 7 ∧
      anchored.ts.slewLost = 625 ∧ measured.ts.phaseOffset = 40 ∧ measured.ts.remainingSlew = 62500000 ∧
      measured.ts.now = ⟨9, 40⟩ ∧ measured.ts.switchPending = false := by decide +kernel

/-- ACQUIRING on path A, which is GOOD, at a fault-free marked step. -/
theorem witness_AcquisitionSlewsOrJumps_step :
    let s := inDiscipline .acquiring (some .a) (ending .good 125000000)
    s.disc.state = .acquiring ∧ s.disc.selected = some .a ∧ (s.mon .a).state = .good ∧
      ComesOnTime (s.mon .a) s.elapsed ∧ FaultFreeMark (s.mon .a) s.elapsed :=
  ⟨rfl, rfl, rfl, witness_comesOnTime .good _ rfl, witness_faultFree .good _ (by decide) (by decide)⟩

/-- Table 1.5: an acquisition by a jump with a load staged, at a marked step 40,000,000 ticks into the second. -/
theorem test_acquisitionWithLoad :
    let s := inDiscipline .acquiring (some .a) (ending .good 125000000)
    let t := after (.referenceStep .a .high)
      (setTs { s.ts with now := ⟨12, 40000000⟩, stagedLoad := some 1760000000 } s)
    t.ts.now = ⟨1760000000, 0⟩ ∧ t.ts.timeState = .set ∧ t.ts.era = 1#16 ∧ t.ts.phaseOffset = 0 ∧
      t.disc.state = .locked ∧
      t.journal.records.map Record.body = [.era 1#16 .loadAcquire, .discipline .acquiring .locked (some .a)] := by
  decide +kernel

/-- A window run out on a monitor that goes on, on one that fails, and after the last step of a second. -/
theorem witness_WindowExpiryStandsInForTheStep :
    let out (st : PathState) (count steps : Nat) : State :=
      setMon .a
        { (stepping st steps false 1000125125).monA with window := some 0, suspectCount := count } State.reset
    (out .good 0 1000).monA.window = some 0 ∧ (out .good 0 1000).monA.state.watches = true ∧
      (charge .a .missingStep (out .suspect 2 5)).monA.state = .failed ∧
      (charge .a .missingStep (out .qualifying 0 999)).monA.state = .qualifying ∧
      (charge .a .missingStep (out .qualifying 0 999)).monA.stepsSinceMark < Monitor.reset.config.stepsPerSecond ∧
      Monitor.reset.config.stepsPerSecond ≤ (charge .a .missingStep (out .good 0 1000)).monA.stepsSinceMark ∧
      (charge .a .missingStep (out .suspect 1 1000)).monA.state = .suspect := by decide +kernel

theorem witness_TimersOfTheReferenceExpire :
    (setMon .a { (stepping .qualifying 0 false 0).monA with silence := some 0 } State.reset).monA.silence = some 0 ∧
      (setMon .a { Monitor.reset with state := .failed, holdOff := some 0 } State.reset).monA.holdOff = some 0 ∧
      Discipline.reset.config.holdoverLimit ≠ 0 ∧
      Discipline.reset.config.holdoverLimit * 125000000 ≤ 75000000000 ∧
      (∀ st ∈ [DiscState.acquiring, DiscState.holdover],
        { Discipline.reset with state := st, holdoverTimer := some 75000000000 }.holdoverTimer = some 75000000000) := by
  decide +kernel

/-- Every path state, and suspect counts on both sides of fail faults. -/
theorem witness_ChargingAFault :
    (∀ st : PathState, (watching st .b State.reset).monB.state = st) ∧ 1 < PathConfig.reset.failFaults ∧
      { PathConfig.reset with failFaults := 1 }.failFaults ≤ 1 ∧ 1 + 1 < PathConfig.reset.failFaults ∧
      PathConfig.reset.failFaults ≤ 2 + 1 ∧
      (FaultTotals.bump .skew ⟨0, 0, 0, 0, 0, 255⟩).skew = 255 ∧ (FaultTotals.bump .skew ⟨0, 0, 0, 0, 0, 254⟩).skew = 255 ∧
      (LinkTotals.bump .crc ⟨0, 0, 255, 0⟩).crc = 255 ∧ (LinkTotals.bump .crc ⟨0, 0, 254, 0⟩).crc = 255 :=
  ⟨fun _ => rfl, by decide +kernel⟩

/-- Every outcome: gained, kept, switched, lost by the path and by the policy. -/
theorem witness_EvaluationChoosesThePath :
    chosenPath (watching .good .a State.reset) = some .a ∧ chosenPath (watching .good .b State.reset) = some .b ∧
      chosenPath State.reset = none ∧
      chosenPath (inDiscipline .locked (some .a) (watching .good .a State.reset)) = some .a ∧
      chosenPath (inDiscipline .locked (some .a) (watching .suspect .a (watching .good .b State.reset))) = some .b ∧
      chosenPath (inDiscipline .locked (some .a) State.reset) = none ∧
      chosenPath
        (setDisc { Discipline.reset with
          config := { DiscConfig.reset with policy := .none }, state := .locked, selected := some .a }
          (watching .good .a State.reset)) = none ∧
      ((inDiscipline .locked (some .a) State.reset).disc.selected.isSome = true ↔
        (inDiscipline .locked (some .a) State.reset).disc.state = .acquiring ∨
          (inDiscipline .locked (some .a) State.reset).disc.state = .locked) ∧
      (State.reset.disc.selected.isSome = true ↔
        State.reset.disc.state = .acquiring ∨ State.reset.disc.state = .locked) := by decide +kernel

/-- The preferred path GOOD and the other selected, revertive on and off; the preferred path not GOOD; SUSPECT with and without
a replacement; a loss with a replacement; no policy. -/
theorem witness_EvaluationChoosesThePath_policies :
    let on (c : DiscConfig) (sel : Option Path) (s : State) : State :=
      setDisc { Discipline.reset with config := c, state := .locked, selected := sel } s
    let revertive := { DiscConfig.reset with revertive := true }
    let both := watching .good .a (watching .good .b State.reset)
    let weakA := watching .suspect .a (watching .good .b State.reset)
    let weakB := watching .good .a (watching .suspect .b State.reset)
    chosenPath (on revertive (some .b) both) = some .a ∧ chosenPath (on DiscConfig.reset (some .b) both) = some .b ∧
      chosenPath (on revertive (some .b) weakA) = some .b ∧ chosenPath (on revertive (some .a) weakA) = some .b ∧
      chosenPath (on DiscConfig.reset (some .b) weakB) = some .a ∧
      chosenPath (on DiscConfig.reset (some .a) (watching .suspect .a State.reset)) = some .a ∧
      chosenPath (on revertive (some .b) (watching .suspect .b State.reset)) = some .b ∧
      chosenPath (on DiscConfig.reset (some .a) (watching .good .b State.reset)) = some .b ∧
      chosenPath (on { DiscConfig.reset with policy := .none } none both) = none := by decide +kernel

/-- A switch and a loss in LOCKED, anchored with a hold, and between a switch and its measurement; in the middle of a second and
at a tick wrap. -/
theorem witness_EvaluationChoosesThePath_timescale :
    let on (ended awaiting : Bool) (s : State) : State :=
      inDiscipline .locked (some .a)
        (setTs { Timescale.reset with
          now := ⟨9, 0⟩, hold := some 7, slewLeft := 9, boundaryDue := ended, switchPending := awaiting } s)
    let switched := watching .suspect .a (watching .good .b State.reset)
    chosenPath (on false false switched) = some .b ∧ chosenPath (on false false State.reset) = none ∧
      (evaluate (on false false switched)).ts.freeRun = ⟨9, 0, 0, 0⟩ ∧
      (evaluate (on true false State.reset)).ts.hold = none ∧
      (evaluate (on true false State.reset)).ts.switchPending = false ∧
      (evaluate (on false true switched)).ts.slewLeft = 9 ∧ (evaluate (on false true switched)).ts.switchPending = true ∧
      (on false false switched).disc.state = .locked ∧ (watching .good .a State.reset).disc.state ≠ .locked := by
  decide +kernel

/-- A switch and a loss in ACQUIRING, with the holdover timer running toward HOLDOVER and with none; and a loss in LOCKED. -/
theorem witness_EvaluationChoosesThePath_acquiring :
    let on (st : DiscState) (back : ReturnState) (timer : Option Nat) (s : State) : State :=
      setDisc { Discipline.reset with
        state := st, selected := some .a, returnState := back, holdoverTimer := timer, freqEstimate := -7 } s
    let switched := evaluate (on .acquiring .holdover (some 9) (watching .suspect .a (watching .good .b State.reset)))
    let carried := evaluate (on .acquiring .holdover (some 9) State.reset)
    let ended := evaluate (on .acquiring .free none State.reset)
    let lost := evaluate (on .locked .free none State.reset)
    switched.disc = ⟨DiscConfig.reset, .acquiring, some .b, .holdover, some 9, -7⟩ ∧
      carried.disc = ⟨DiscConfig.reset, .holdover, none, .free, some 9, -7⟩ ∧
      ended.disc = ⟨DiscConfig.reset, .free, none, .free, none, -7⟩ ∧
      lost.disc = ⟨DiscConfig.reset, .holdover, none, .free, some 0, -7⟩ := by decide +kernel

/-- A change that the evaluation leaves unchanged, and one that brings a gain, with its two records in order. -/
theorem witness_PathChangeIsHandedOn :
    State.reset.disc.selected = chosenPath State.reset ∧
      (watching .good .a State.reset).disc.selected ≠ chosenPath (watching .good .a State.reset) ∧
      (handOnPath .a .qualifying none (watching .good .a State.reset)).journal.records.map Record.body
        = [.path .a .qualifying .good none false, .discipline .free .acquiring (some .a)] := by decide +kernel

/-- A clean second that makes path A GOOD and, revertive being on, the selected path in place of B leaves the estimate; the
next one moves it (log entry 32). -/
theorem test_cleanSecondThatSelects :
    let weak := watching .suspect .a (watching .good .b State.reset)
    let s := setDisc { Discipline.reset with
        config := { DiscConfig.reset with revertive := true }, state := .locked, selected := some .b }
      (setMon .a { weak.monA with cleanCount := 1 } weak)
    let t := cleanSecond .a 125000250 s
    t.disc.selected = some .a ∧ t.disc.state = .locked ∧ t.monA.state = .good ∧ t.disc.freqEstimate = 0 ∧
      (cleanSecond .a 125000250 t).disc.freqEstimate = 250 := by decide +kernel

theorem witness_EstimateLearnsWhileLocked :
    (124987500 : Nat) ≤ 125012500 ∧ State.reset.disc.freqEstimate.natAbs ≤ 100000 ∧
      (inDiscipline .locked (some .b) State.reset).disc.selected = some .b ∧
      (inDiscipline .acquiring (some .b) State.reset).disc.state ≠ .locked := by decide +kernel

/-- A second sample at one tick; no edge, an edge that does not match, one in the dead time, and one that is accepted. -/
theorem witness_CaptureEdgeIsAcceptedOrIgnored :
    State.reset.caps[(1 : Fin 4)].level = .low ∧ State.reset.caps[(1 : Fin 4)].select = .off ∧
      (setCap 1 ⟨.rise, 50, true, true, some 1, .low⟩ State.reset).caps[(1 : Fin 4)].timer ≠ none ∧
      (setCap 1 ⟨.rise, 50, true, true, none, .low⟩ (withWaiting State.reset)).caps[(1 : Fin 4)].select = .rise ∧
      (setCap 1 ⟨.rise, 50, true, true, none, .low⟩ (withWaiting State.reset)).caps[(1 : Fin 4)].timer = none ∧
      State.reset.sampled[(1 : Fin 4)] = true ∧ unsampled.sampled[(1 : Fin 4)] = false := by
  decide +kernel

/-- For RecordIsStoredOrMissed, MissStartsAnOverrun and MissWithinAnOverrun. -/
theorem witness_journalStatements :
    State.reset.journal.records.length < 256 ∧ (fullJournal false 0 State.reset).journal.records.length = 256 ∧
      (fullJournal false 0 State.reset).journal.overrun = false ∧
      (fullJournal true 65535 State.reset).journal.overrun = true ∧
      (fullJournal true 65535 State.reset).journal.missed = 65535 ∧
      (appendRecord (.capture 0 .rise .unset .free) (fullJournal false 0 State.reset)).attn.stateOf .journalOverrun
        = .raised ∧
      (appendRecord (.capture 0 .rise .unset .free)
        (setKind .journalOverrun .notified (fullJournal false 0 State.reset))).attn.stateOf .journalOverrun
        = .notified := by decide +kernel

/-- The pin is low for a subscribed RAISED or NOTIFIED kind, and high for any other. -/
theorem test_attnPin :
    attnLow (setKind .link .raised State.reset) = true ∧ attnLow (setKind .link .notified State.reset) = true ∧
      attnLow (setKind .journalLevel .raised State.reset) = false ∧ attnLow State.reset = false ∧
      attnLow { setKind .link .raised State.reset with run := .inReset } = false := by decide +kernel

theorem witness_RaisingAKind :
    (setKind .link .notified State.reset).attn.stateOf .link ≠ .quiet ∧ State.reset.attn.stateOf .link = .quiet ∧
      State.reset.attn.isSubscribed .journalLevel = false ∧ State.reset.attn.isSubscribed .link = true ∧
      noticePlaceFree State.reset.link = false ∧ noticePlaceFree (quietLink State.reset).link = true := by decide +kernel

/-! ### What always holds, met by states with something in them -/

theorem witness_JournalStaysWhole :
    let s := { State.reset with journal := ⟨[someRecord 65535#16, someRecord 0#16], 1#16, 2, false, 0, ⟨0, 0⟩, 1⟩ }
    JournalOk s.journal ∧ ∃ t, step s = .next t :=
  ⟨⟨by decide +kernel, by decide +kernel, by decide +kernel, nofun, fun _ => ⟨rfl, rfl⟩,
    by unfold numbered; decide +kernel⟩, _, rfl⟩

theorem witness_LinkStaysWithinItsPlaces :
    let s := setReceiver .body [2#8, 1#8, 9#8, 0#8] (loaded 4 7 State.reset)
    LinkOk s.link ∧ ∃ t, step s = .next t :=
  ⟨⟨by decide +kernel, by decide +kernel, by decide +kernel, by decide +kernel, nofun,
    ⟨by decide +kernel, by decide +kernel, by decide +kernel⟩⟩, _, rfl⟩

theorem witness_RaisedKindsHaveANoticeWaiting :
    let s := setKind .link .raised State.reset
    s.attn.toNotify.any id = true ∧ NoticeOk s ∧ ∃ t, step s = .next t :=
  ⟨by decide +kernel, by unfold NoticeOk; decide +kernel, _, rfl⟩

/-- LOCKED to path A, which is GOOD, and held at tick 0. -/
def locked : State :=
  let s := inDiscipline .locked (some .a) (watching .good .a (atTime 9 0 State.reset))
  setTs { s.ts with hold := some 7, stagedLoad := some 5, phaseOffset := -62499999, remainingSlew := 62500000 } s

theorem witness_lockedDiscipline : DisciplineOk locked :=
  ⟨by decide +kernel, by intro p h; cases h; decide +kernel, nofun, nofun, by decide +kernel, by decide +kernel,
    fun _ => rfl⟩

theorem witness_ClockStaysInRange : ClockOk locked ∧ DisciplineOk locked ∧ ∃ t, step locked = .next t :=
  ⟨⟨by unfold TimeValue.Valid; decide +kernel, by intro v h; cases h; decide, by decide +kernel, by decide +kernel,
    by decide +kernel, by decide +kernel, by decide +kernel, fun _ => by decide +kernel⟩,
    witness_lockedDiscipline, _, rfl⟩

theorem witness_SelectedPathStaysTrusted : DisciplineOk locked ∧ ∃ t, step locked = .next t :=
  ⟨witness_lockedDiscipline, _, rfl⟩

/-- Path A QUALIFYING and path B FAILED with its hold-off running. -/
def watched : State :=
  setMon .b
    { Monitor.reset with
      state := .failed, holdOff := some 9, config := { PathConfig.reset with autoRestart := true } }
    (watching .qualifying .a State.reset)

theorem witness_MonitorsKeepTheirShape : MonitorsOk watched ∧ ∃ t, step watched = .next t :=
  ⟨⟨⟨by decide +kernel, by decide +kernel, by decide +kernel, by decide +kernel, by decide +kernel, by decide +kernel,
      by decide +kernel, by decide +kernel, by decide +kernel⟩,
    ⟨by decide +kernel, by decide +kernel, by decide +kernel, by decide +kernel, by decide +kernel, by decide +kernel,
      by decide +kernel, by decide +kernel, by decide +kernel⟩⟩, _, rfl⟩

/-- Two armed entries with one due time, one that waits, and a pulse on the line they share. -/
def planned : State :=
  let s := atTime 3 4 (withWaiting State.reset)
  setLine 0 ⟨.scheduled, .high, .low, some 9⟩
    (setArmed
      [⟨riseOnce 5 (.timed ⟨9, 0⟩), ⟨9, 0⟩, 0⟩, ⟨{ riseOnce 7 (.timed ⟨9, 0⟩) with admission := 2 }, ⟨9, 0⟩, 0⟩] s)

theorem witness_planned : ScheduleOk planned := by
  refine ⟨by decide +kernel, by decide +kernel, by unfold armedInOrder; decide +kernel, ?_, nofun, by decide +kernel⟩
  intro i
  have one : ∀ i : Fin 4, ∀ e ∈ planned.sched.waiting[i],
      i = 1 ∧ e.desc.start = .triggered 1 125 .once := by decide +kernel
  intro e inList
  obtain ⟨rfl, start⟩ := one i e inList
  exact ⟨_, _, start⟩

theorem witness_ScheduleStaysInOrder : ScheduleOk planned ∧ ∃ t, step planned = .next t :=
  ⟨witness_planned, _, rfl⟩

theorem witness_PulsesOnlyOnScheduledLines :
    ScheduleOk planned ∧ LinesOk planned ∧ ∃ t, step planned = .next t :=
  ⟨witness_planned, by unfold LinesOk; decide +kernel, _, rfl⟩

end Sys2Proof.Tests
end

/-! PROOFS. The timestamp journal (chapter 8): a RESET of scope JOURNAL, READ JOURNAL, and the records missed at a full
journal. -/

namespace Sys2Proof.Machine

variable (s : State)

/-! ## Answering a request -/

/-- A command that takes the head request answers it with what the owner gives on the state without the request (R175). -/
theorem answeredWith_of_take {c : Instr} {accepts : Request → Bool} {owner : Request → State → Reply × State}
    {r : Request} {rep : Reply} {t : State} (meaning : exec c s = take accepts owner s)
    (head : headRequest s = some r) (accepted : accepts r = true)
    (done : owner r (dequeueRequest s) = (rep, t)) : AnsweredWith c r rep t s := by
  rw [AnsweredWith, meaning, take_of_head s head accepted, done]

/-! ## RESET of scope JOURNAL (R150) -/

theorem exec_resetJournal : exec .resetJournal s = execResetJournal s := rfl

/-- The part after a RESET of scope JOURNAL: the journal is emptied, and of the attention unit at most states change. -/
theorem journalReset_eq :
    journalReset s =
      { s with
        journal := ⟨[], s.journal.seqCounter, 0, false, 0, ⟨0, 0⟩, s.journal.threshold⟩
        attn := { s.attn with states := (journalReset s).attn.states } } := rfl

/-- The states of the kinds after a RESET of scope JOURNAL. -/
theorem journalReset_stateOf (k : AttnKind) :
    (journalReset s).attn.stateOf k =
      if k = .journalLevel ∨ k = .journalOverrun then .quiet else s.attn.stateOf k := by
  unfold journalReset
  rw [stateOf_setKind, stateOf_setKind]
  cases k <;> rfl

/-- Settles O7: the row takes the request, and the two laws of `journalReset` give the state. -/
theorem resetJournalEmptiesTheJournal : Obligations.ResetJournalEmptiesTheJournal := by
  intro s r head kind payload
  refine ⟨journalReset (dequeueRequest s), ?_, journalReset_eq _, rfl, rfl, ?_, ?_, ?_⟩
  · have scope : readScope r.payload = some .journal := by rw [payload]; rfl
    refine answeredWith_of_take s (exec_resetJournal s) head ?_ (parsed_of_read _ scope)
    simp [asksScope, hasKind, kind, scope]
  · simp [journalReset_stateOf]
  · simp [journalReset_stateOf]
  · intro k notLevel notOverrun
    simp [journalReset_stateOf, notLevel, notOverrun]

/-! ## Storing a record -/

/-- The state with a record at the journal's tail, before the fill is judged against the threshold (R138). -/
def withRecord (body : RecordBody) (s : State) : State :=
  { s with journal :=
      { s.journal with
        records := s.journal.records ++ [⟨s.journal.seqCounter, s.ts.era, s.ts.now, body⟩]
        seqCounter := s.journal.seqCounter + 1 } }

/-- A record that brings the fill to the threshold raises JOURNAL_LEVEL (R148). -/
theorem storeRecord_at_threshold (body : RecordBody) (h : s.journal.records.length + 1 = s.journal.threshold) :
    storeRecord body s = raise .journalLevel (withRecord body s) :=
  if_pos ⟨by omega, by omega⟩

/-- A record that does not bring the fill to the threshold raises nothing (R148). -/
theorem storeRecord_off_threshold (body : RecordBody) (h : s.journal.records.length + 1 ≠ s.journal.threshold) :
    storeRecord body s = withRecord body s :=
  if_neg (by omega)

/-- Storing a record changes at most the journal, the attention states and the outbound queue. -/
theorem storeRecord_eq (body : RecordBody) :
    storeRecord body s =
      { withRecord body s with
        attn := (storeRecord body s).attn
        link := { s.link with outbound := (storeRecord body s).link.outbound } } := by
  by_cases level : s.journal.records.length + 1 = s.journal.threshold
  · rw [storeRecord_at_threshold s body level, raise_eq]
    rfl
  · rw [storeRecord_off_threshold s body level]
    rfl

/-- A stored record leaves the subscription set. -/
@[simp] theorem storeRecord_subscribed (body : RecordBody) :
    (storeRecord body s).attn.subscribed = s.attn.subscribed := by
  by_cases level : s.journal.records.length + 1 = s.journal.threshold
  · rw [storeRecord_at_threshold s body level]
    exact raise_subscribed _ _
  · rw [storeRecord_off_threshold s body level]
    rfl

/-- A stored record raises no kind but JOURNAL_LEVEL (R148). -/
theorem storeRecord_stateOf_other (body : RecordBody) {k : AttnKind} (h : k ≠ .journalLevel) :
    (storeRecord body s).attn.stateOf k = s.attn.stateOf k := by
  by_cases level : s.journal.records.length + 1 = s.journal.threshold
  · rw [storeRecord_at_threshold s body level]
    exact raise_other _ h.symm
  · rw [storeRecord_off_threshold s body level]
    rfl

/-! ## READ JOURNAL (R143, R145, R146) -/

theorem exec_readJournal : exec .readJournal s = execReadJournal s := rfl

/-- A release outside an overrun, or of no record, only drops the records (R146). -/
theorem release_without_gap {count : Nat} (h : s.journal.overrun = false ∨ count = 0) :
    release count s = dropRecords count s :=
  if_neg fun ⟨overrun, released⟩ => h.elim (by simp [overrun]) (by omega)

/-- A release that ends an overrun stores its GAP record behind what is left (R143). -/
theorem release_with_gap {count : Nat} (overrun : s.journal.overrun = true) (released : 1 ≤ count) :
    release count s =
      storeRecord (.gap s.journal.missed s.journal.firstMissed) (endOverrun (dropRecords count s)) :=
  if_pos ⟨overrun, released⟩

/-- The state after a READ JOURNAL that passes its checks (R146). -/
def afterRead (drop most : Nat) (s : State) : State :=
  setDelivered (returned most (release drop s)).length (release drop s)

theorem afterRead_delivered (drop most : Nat) :
    (afterRead drop most s).journal.delivered = min most (afterRead drop most s).journal.records.length :=
  List.length_take

/-- A READ JOURNAL within its bounds replies with the state that it leaves (R146, Table 11.9). -/
theorem readRecords_accepted {drop most : Nat} (h : drop ≤ 9 ∧ 1 ≤ most ∧ most ≤ 9 ∧ drop ≤ s.journal.delivered) :
    readRecords (drop, most) s =
      (okReply
        (beBytes 2 (afterRead drop most s).journal.records.length
          ++ [flagByte (afterRead drop most s).journal.overrun]
          ++ beBytes 1 (afterRead drop most s).journal.delivered
          ++ (((afterRead drop most s).journal.records.take most).map recordBytes).flatten),
        afterRead drop most s) :=
  if_pos h

/-- A READ JOURNAL outside its bounds is refused with RANGE (R145). -/
theorem readRecords_refused {drop most : Nat}
    (h : ¬(drop ≤ 9 ∧ 1 ≤ most ∧ most ≤ 9 ∧ drop ≤ s.journal.delivered)) :
    readRecords (drop, most) s = (plainReply .range, s) :=
  if_neg h

/-- The state after a READ JOURNAL that ends no overrun. -/
theorem afterRead_without_gap {drop : Nat} (most : Nat) (h : s.journal.overrun = false ∨ drop = 0) :
    afterRead drop most s =
      { s with journal :=
          { s.journal with
            records := s.journal.records.drop drop
            delivered := (afterRead drop most s).journal.delivered } } := by
  unfold afterRead
  rw [release_without_gap s h]
  rfl

section Gap

variable {drop : Nat} (most : Nat) (overrun : s.journal.overrun = true) (released : 1 ≤ drop)
include overrun released

/-- The state after a READ JOURNAL that ends an overrun: the GAP record follows the records left, and beside the journal at
most the attention states and the outbound queue change. -/
theorem afterRead_with_gap :
    afterRead drop most s =
      { s with
        journal :=
          ⟨s.journal.records.drop drop ++
              [⟨s.journal.seqCounter, s.ts.era, s.ts.now, .gap s.journal.missed s.journal.firstMissed⟩],
            s.journal.seqCounter + 1, (afterRead drop most s).journal.delivered, false, 0, ⟨0, 0⟩,
            s.journal.threshold⟩
        attn := (afterRead drop most s).attn
        link := { s.link with outbound := (afterRead drop most s).link.outbound } } := by
  unfold afterRead
  rw [release_with_gap s overrun released]
  exact congrArg (setDelivered _) (storeRecord_eq _ _)

theorem afterRead_subscribed : (afterRead drop most s).attn.subscribed = s.attn.subscribed := by
  unfold afterRead
  rw [release_with_gap s overrun released]
  exact storeRecord_subscribed _ _

/-- The GAP record raises no kind but JOURNAL_LEVEL. -/
theorem afterRead_stateOf_other {k : AttnKind} (h : k ≠ .journalLevel) :
    (afterRead drop most s).attn.stateOf k = s.attn.stateOf k := by
  unfold afterRead
  rw [release_with_gap s overrun released]
  exact storeRecord_stateOf_other _ _ h

/-- A GAP record that brings the fill to the threshold raises JOURNAL_LEVEL, and may queue its NOTICE (R148, R156). -/
theorem afterRead_at_threshold (level : (s.journal.records.drop drop).length + 1 = s.journal.threshold) :
    (afterRead drop most s).attn.stateOf .journalLevel = (s.attn.stateOf .journalLevel).whenRaised ∧
      (afterRead drop most s).link.outbound = queueAfterRaise .journalLevel s.attn s.link.outbound := by
  unfold afterRead
  rw [release_with_gap s overrun released, storeRecord_at_threshold _ _ level]
  exact ⟨raise_own _ _, congrArg Link.outbound (raise_link _ _)⟩

/-- A GAP record that does not bring the fill to the threshold raises nothing and queues nothing. -/
theorem afterRead_off_threshold (level : (s.journal.records.drop drop).length + 1 ≠ s.journal.threshold) :
    (afterRead drop most s).attn.stateOf .journalLevel = s.attn.stateOf .journalLevel ∧
      (afterRead drop most s).link.outbound = s.link.outbound := by
  unfold afterRead
  rw [release_with_gap s overrun released, storeRecord_off_threshold _ _ level]
  exact ⟨rfl, rfl⟩

end Gap

section Request

variable {r : Request} (head : headRequest s = some r) (kind : r.kind = 0x14#8)
include head kind

/-- READ JOURNAL answers with what its owner gives on the counts read. -/
theorem readJournal_answers {rep : Reply} {t : State} (length : r.payload.length = 2)
    (done : readRecords (byteAt 0 r.payload, byteAt 1 r.payload) (dequeueRequest s) = (rep, t)) :
    AnsweredWith .readJournal r rep t s :=
  answeredWith_of_take s (exec_readJournal s) head (by simp [hasKind, kind])
    ((parsed_of_read _ (if_pos length)).trans done)

/-- READ JOURNAL with a payload of another length is MALFORMED (R145). -/
theorem readJournal_malformed (length : r.payload.length ≠ 2) : RefusedWith .readJournal r .malformed s :=
  answeredWith_of_take s (exec_readJournal s) head (by simp [hasKind, kind])
    (parsed_of_malformed _ (if_neg length))

end Request

/-- Settles O24: the checks by cases of `readRecords`, and the state by cases of the release. -/
theorem readJournalReleasesAndReturns : Obligations.ReadJournalReleasesAndReturns := by
  intro s r head kind
  refine ⟨readJournal_malformed s head kind, fun length => ⟨fun bounds => ?_, fun beyond => ?_, ?_⟩⟩
  · exact readJournal_answers s head kind length (readRecords_refused _ (by omega))
  · exact readJournal_answers s head kind length
      (readRecords_refused _ (by rw [dequeueRequest_journal]; omega))
  · intro dropLe mostPos mostLe delivered left gap
    refine ⟨afterRead (byteAt 0 r.payload) (byteAt 1 r.payload) (dequeueRequest s), ?_,
      afterRead_delivered _ _ _, ?_, ?_⟩
    · exact readJournal_answers s head kind length
        (readRecords_accepted _ ⟨dropLe, mostPos, mostLe, delivered⟩)
    · exact afterRead_without_gap (dequeueRequest s) _
    · intro overrun released
      refine ⟨?_, ?_, ?_, ?_, ?_⟩
      · exact afterRead_with_gap (dequeueRequest s) _ overrun released
      · exact afterRead_subscribed (dequeueRequest s) _ overrun released
      · exact fun k => afterRead_stateOf_other (dequeueRequest s) _ overrun released
      · exact afterRead_at_threshold (dequeueRequest s) _ overrun released
      · exact afterRead_off_threshold (dequeueRequest s) _ overrun released

/-! ## Missed records (R141, R142) -/

/-- A record that arrives at a full journal is missed. -/
theorem appendRecord_full (body : RecordBody) (full : s.journal.records.length = 256) :
    appendRecord body s = missRecord s :=
  if_neg (by rw [full]; exact Nat.lt_irrefl _)

/-- The first record missed begins the overrun and raises JOURNAL_OVERRUN (R141). -/
theorem missRecord_calm (calm : s.journal.overrun = false) :
    missRecord s =
      raise .journalOverrun
        { s with journal := { s.journal with overrun := true, missed := 1, firstMissed := s.ts.now } } :=
  if_neg (by simp [calm])

/-- A further record missed is only counted (R142). -/
theorem missRecord_overrun (overrun : s.journal.overrun = true) :
    missRecord s = { s with journal := { s.journal with missed := satSucc 65535 s.journal.missed } } :=
  if_pos overrun

theorem flagByte_toNat (b : Bool) : (flagByte b).toNat = b.toNat := by cases b <;> rfl

/-- QUERY STATUS shows the overrun in byte 13 of its report (Table 11.9). -/
theorem statusBytes_overrun : byteAt 13 (statusBytes s) = s.journal.overrun.toNat :=
  flagByte_toNat _

/-- READ JOURNAL shows the overrun in byte 2 of its reply, behind the fill (Table 11.9). -/
theorem readReply_overrun (records : List Record) : byteAt 2 (readReply records s).body = s.journal.overrun.toNat :=
  flagByte_toNat _

/-- Settles O49: the miss is a raise of JOURNAL_OVERRUN, and both reports read the overrun flag. -/
theorem missStartsAnOverrun : Obligations.MissStartsAnOverrun := by
  intro s body full calm t
  have miss : t = raise .journalOverrun
      { s with journal := { s.journal with overrun := true, missed := 1, firstMissed := s.ts.now } } :=
    (appendRecord_full s body full).trans (missRecord_calm s calm)
  have journal : t.journal = { s.journal with overrun := true, missed := 1, firstMissed := s.ts.now } := by
    rw [miss, raise_journal]
  refine ⟨journal, by rw [journal], ?_, fun k other => ?_, ?_, fun records => ?_⟩
  · rw [miss]
    exact raise_own _ _
  · rw [miss]
    exact raise_other _ other.symm
  · rw [statusBytes_overrun, journal]
    rfl
  · rw [readReply_overrun, journal]
    rfl

/-- Settles O50: at a full journal in overrun a record is missed, and the miss is only counted. -/
theorem missWithinAnOverrun : Obligations.MissWithinAnOverrun := fun s body full overrun =>
  (appendRecord_full s body full).trans (missRecord_overrun s overrun)

end Sys2Proof.Machine

/-! PROOFS. What one step can do, said once: the effects of the requests, of the events and of the commands that start and
stop the part. Every invariant below is a case analysis over these. -/

namespace Sys2Proof.Machine

/-! ## The effects of a step -/

/-- What the requests of the journal and of the attention unit can do (chapters 8 and 9). -/
inductive ReportRequest (s : State) : State → Prop
  | journalReset : ReportRequest s (journalReset s)
  | journalRead (drop most : Nat) (delivered : drop ≤ s.journal.delivered) :
      ReportRequest s (setDelivered (returned most (release drop s)).length (release drop s))
  | attentionSet (c : Vector Bool 7 × Nat) (range : 1 ≤ c.2 ∧ c.2 ≤ Config.journalCapacity) :
      ReportRequest s (setAttention c s).2
  | attentionAcknowledged (set : Vector Bool 7) : ReportRequest s (acknowledge set s).2

/-- What the owner of a taken request can do to the part (chapters 1 to 9), each effect with the checks it has passed. -/
inductive RequestEffect (s : State) : State → Prop
  | unchanged : RequestEffect s s
  | scheduleReset : RequestEffect s (scheduleReset s)
  | timescaleReset : RequestEffect s (timescaleReset s)
  | loadStaged (v : Nat) (range : v < Config.secondsModulus) :
      RequestEffect s (setTs { s.ts with stagedLoad := some v } s)
  | loadCancelled : RequestEffect s (setTs { s.ts with stagedLoad := none } s)
  | slewAdjusted (total : Int) (range : total.natAbs ≤ Config.halfSecond) :
      RequestEffect s (setTs { s.ts with remainingSlew := total } s)
  | timeStepped (forward : Bool) (n : Nat) (set : s.ts.timeState ≠ .unset) (notAcquiring : s.disc.state ≠ .acquiring)
      (notLocked : s.disc.state ≠ .locked) : RequestEffect s (stepTo forward (TimeValue.ofLin n) s)
  | pathConfigured (p : Path) (c : PathConfig) (range : c.inRange = true) (disabled : (s.mon p).state = .disabled) :
      RequestEffect s (setMon p { s.mon p with config := c } s)
  | pathRefreshed (p : Path) (absent : (s.mon p).state = .absent) :
      RequestEffect s (setMon p ((s.mon p).cleared .absent).forgetFaults s)
  | pathRestarted (p : Path) : RequestEffect s (changePath p ((s.mon p).cleared .absent).forgetFaults none s)
  | pathDisabled (p : Path) : RequestEffect s (changePath p ((s.mon p).cleared .disabled) none s)
  | disciplineConfigured (c : DiscConfig) (range : c.inRange = true) :
      RequestEffect s (applyConfig s.disc.config.holdoverLimit (setDisc { s.disc with config := c } s))
  | entryAdmitted (raw : RawDescriptor) (d : Descriptor) (set : s.ts.timeState ≠ .unset)
      (fresh : s.sched.holds raw.handle = false) (room : s.sched.entries.length < Config.scheduleCapacity)
      (checked : raw.checked = some d) (mode : s.lines[d.line].mode = .scheduled) :
      RequestEffect s (admitChecked d s).2
  | entryWithdrawn (handle : Nat) (e : Entry) (due : Option TimeValue) (found : s.sched.find handle = some (e, due)) :
      RequestEffect s (reportRemoved .withdrawn e (removeEntry handle s))
  | lineConfigured (i : Fin 8) (mode : LineMode) (idle : Level)
      (allowed : { s.lines[i] with mode := mode, idle := idle } = s.lines[i] ∨ lineHeld i s = false) :
      RequestEffect s (setLine i { s.lines[i] with mode := mode, idle := idle } s)
  | lineDriven (i : Fin 8) (level : Level) (manual : s.lines[i].mode = .manual) :
      RequestEffect s (setLine i { s.lines[i] with level := level } s)
  | captureConfigured (i : Fin 4) (c : CapLine) : RequestEffect s (setCap i c s)
  | reports {t : State} (effect : ReportRequest s t) : RequestEffect s t

/-- What an event of the link controller can do (chapter 10). -/
inductive LinkEvent (s : State) : State → Prop
  | byteReceived (b : Byte) : LinkEvent s (receive b s)
  | frameAbandoned : LinkEvent s (loseFrame .truncated (toHunt s))
  | brokenWhilePending (pins : PinSample) (pending : s.link.partPending = true) :
      LinkEvent s (breakWhilePending pins s)
  | linkReset (notPending : s.link.partPending = false) : LinkEvent s (linkReset s)
  | breakEnded : LinkEvent s (endBreak s)
  | frameBegan : LinkEvent s (beginHead s)
  | frameEnded (pins : PinSample) : LinkEvent s (endFrame pins s)
  | frameStopped (pins : PinSample) : LinkEvent s (stopTransmitter pins s)

/-- What an event of the running part can do, each effect with the condition under which the event can happen. -/
inductive EventEffect (s : State) : State → Prop
  | boundaryCarried (due : s.ts.boundaryDue = true) : EventEffect s (carryBoundary s)
  | holdEnded : EventEffect s (setTs { s.ts with hold := none } s)
  | fired (a : ArmedEntry) (firable : a ∈ s.firable) : EventEffect s (fireOrdinary a s)
  | stepTaken (p : Path) (marked : Bool) : EventEffect s (takeStep p marked s)
  | windowExpired (p : Path) (due : windowDue p s = true) : EventEffect s (expireWindow p s)
  | pathTimedOut (p : Path) : EventEffect s (changePath p ((s.mon p).cleared .absent) none s)
  | holdoverExpired : EventEffect s (expireHoldover s)
  | pulseEnded (i : Fin 8) : EventEffect s (endPulse i s)
  | sampled (i : Fin 4) (level : Level) : EventEffect s (takeSample i level (markSampled i s))
  | deadTimeEnded (i : Fin 4) : EventEffect s (setCap i { s.caps[i] with timer := none } s)
  | link {t : State} (effect : LinkEvent s t) : EventEffect s t

/-- What a command can do to the part. -/
inductive CommandEffect (s : State) : State → Prop
  | unchanged : CommandEffect s s
  | poweredOn (pins : PinSample) : CommandEffect s (fullReset .power false pins s)
  | heldInReset : CommandEffect s (holdInReset s)
  | released (pins : PinSample) : CommandEffect s (fullReset .pin false pins s)
  | poweredOff : CommandEffect s { s with run := .off, link := { s.link with tx := none } }
  | answered (r : Request) (rep : Reply) (u : State) (head : headRequest s = some r)
      (effect : RequestEffect (dequeueRequest s) u) : CommandEffect s (answer .dispatched r rep u)
  | woundDown (r : Request) (rep : Reply) (head : headRequest s = some r) :
      CommandEffect s (windDown (answer .partReset r rep (dequeueRequest s)))
  | event (u : State) (running : s.run = .running) (effect : EventEffect s u) : CommandEffect s u

/-- What a step can do: the effect of the command at the front, a tick, or one of the part's own events joining the queue. -/
inductive StepEffect (s : State) : State → Prop
  | command (rest : List Instr) (t : State) (effect : CommandEffect (s.withPending rest) t) : StepEffect s t
  | ticked : StepEffect s (tick s)
  | queued (queue : List Instr) (choices : Nat) : StepEffect s { s with pending := queue, choices := choices }

/-! ## The owners of the requests -/

section Owners

variable (s : State)

open RequestEffect

theorem bare_effect {owner : State → Reply × State} (h : RequestEffect s (owner s).2) (r : Request) :
    RequestEffect s (bare owner r s).2 := by
  unfold bare
  split
  · exact h
  · exact unchanged

theorem parsed_effect {α : Type} {read : List Byte → Option α} {owner : α → State → Reply × State}
    (h : ∀ x, RequestEffect s (owner x s).2) (r : Request) : RequestEffect s (parsed read owner r s).2 := by
  unfold parsed
  split
  · exact unchanged
  · exact h _

theorem stageLoad_effect (v : Nat) : RequestEffect s (stageLoad v s).2 := by
  unfold stageLoad
  split
  · exact loadStaged v ‹_›
  · exact unchanged

theorem adjustSlew_effect (amount : Bool × TimeValue) : RequestEffect s (adjustSlew amount s).2 := by
  unfold adjustSlew
  dsimp only
  split
  · rename_i accepted
    exact slewAdjusted _ accepted.2.2
  · exact unchanged

theorem stepTime_effect (amount : Bool × TimeValue) : RequestEffect s (stepTime amount s).2 := by
  unfold stepTime
  dsimp only
  split
  · exact unchanged
  · rename_i set
    split
    · exact unchanged
    · rename_i free
      obtain ⟨notAcquiring, notLocked⟩ := not_or.mp free
      split
      · dsimp only
        split
        · exact unchanged
        · exact timeStepped _ _ set notAcquiring notLocked
      · exact unchanged

theorem configurePath_effect (c : Path × PathConfig) : RequestEffect s (configurePath c s).2 := by
  unfold configurePath
  split
  · split
    · exact pathConfigured c.1 c.2 ‹_› ‹_›
    · exact unchanged
  · exact unchanged

theorem restartPath_effect (p : Path) : RequestEffect s (restartPath p s).2 := by
  unfold restartPath
  dsimp only
  split
  · exact unchanged
  · exact pathRefreshed p ‹_›
  all_goals exact pathRestarted p

theorem enablePath_effect (p : Path) : RequestEffect s (enablePath p s).2 := by
  unfold enablePath
  split
  · exact pathRestarted p
  · exact unchanged

theorem disablePath_effect (p : Path) : RequestEffect s (disablePath p s).2 := by
  unfold disablePath
  split
  · exact unchanged
  · exact pathDisabled p

theorem configureDiscipline_effect (c : DiscConfig) : RequestEffect s (configureDiscipline c s).2 := by
  unfold configureDiscipline
  split
  · exact disciplineConfigured c ‹_›
  · exact unchanged

theorem admitEntry_effect (raw : RawDescriptor) : RequestEffect s (admitEntry raw s).2 := by
  unfold admitEntry
  split
  · exact unchanged
  · rename_i set
    split
    · exact unchanged
    · rename_i fresh
      split
      · exact unchanged
      · rename_i room
        split
        · exact unchanged
        · rename_i d checked
          split
          · rename_i mode
            exact entryAdmitted raw d set (Bool.not_eq_true _ ▸ fresh) (Nat.lt_of_not_le room) checked mode
          · exact unchanged

theorem withdraw_effect (handle : Nat) : RequestEffect s (withdraw handle s).2 := by
  unfold withdraw
  split
  · exact unchanged
  · exact entryWithdrawn handle _ _ ‹_›

theorem queryEntry_effect (handle : Nat) : RequestEffect s (queryEntry handle s).2 := by
  unfold queryEntry
  split <;> exact unchanged

theorem configureLine_effect (c : Nat × LineMode × Level) : RequestEffect s (configureLine c s).2 := by
  unfold configureLine
  split
  · dsimp only
    split
    · exact unchanged
    · rename_i allowed
      refine lineConfigured _ _ _ ?_
      rcases not_and_or.mp allowed with same | free
      · exact .inl (not_not.mp same)
      · exact .inr (Bool.not_eq_true _ ▸ free)
  · exact unchanged

theorem driveLine_effect (c : Nat × Level) : RequestEffect s (driveLine c s).2 := by
  unfold driveLine
  split
  · dsimp only
    split
    · exact lineDriven _ _ ‹_›
    · exact unchanged
  · exact unchanged

theorem configureCapture_effect (c : Nat × EdgeSelect × TimeValue × Bool × Bool) :
    RequestEffect s (configureCapture c s).2 := by
  unfold configureCapture
  split
  · split
    · exact captureConfigured _ _
    · exact unchanged
  · exact unchanged

theorem readRecords_effect (counts : Nat × Nat) : RequestEffect s (readRecords counts s).2 := by
  unfold readRecords
  split
  · rename_i accepted
    exact reports (.journalRead _ _ accepted.2.2.2)
  · exact unchanged

theorem setAttention_effect (c : Vector Bool 7 × Nat) : RequestEffect s (setAttention c s).2 := by
  by_cases range : 1 ≤ c.2 ∧ c.2 ≤ Config.journalCapacity
  · exact reports (.attentionSet c range)
  · unfold setAttention
    rw [if_neg range]
    exact unchanged

end Owners

/-! ## The commands -/

section Commands

variable {s t : State}

open CommandEffect

/-- A command that takes a request does what its owner does, and answers. -/
theorem take_effect {accepts : Request → Bool} {owner : Request → State → Reply × State}
    (owned : ∀ r, RequestEffect (dequeueRequest s) (owner r (dequeueRequest s)).2)
    (h : take accepts owner s = .next t) : CommandEffect s t := by
  rcases take_cases s accepts owner with e | ⟨r, head, _, e⟩ <;> rw [e] at h <;> cases h
  · exact unchanged
  · exact answered r _ _ head (owned r)

/-- An event does what its effect says where it can happen. -/
theorem event_effect {happens : Bool} {effect : State → State}
    (caused : happens = true → EventEffect s (effect s)) (h : Machine.event happens effect s = .next t) :
    CommandEffect s t := by
  rcases event_cases s happens effect with e | ⟨running, happened, e⟩ <;> rw [e] at h <;> cases h
  · exact unchanged
  · exact .event _ running (caused happened)

theorem execResetNLow_effect (h : execResetNLow s = .next t) : CommandEffect s t := by
  unfold execResetNLow at h
  split at h <;> cases h
  · exact unchanged
  · exact heldInReset

theorem execResetNRelease_effect {pins : PinSample} (h : execResetNRelease pins s = .next t) : CommandEffect s t := by
  unfold execResetNRelease at h
  split at h <;> cases h
  · exact released pins
  · exact unchanged

theorem execResetPart_effect (h : execResetPart s = .next t) : CommandEffect s t := by
  unfold execResetPart at h
  split at h
  · cases h
    exact unchanged
  · rename_i r head
    split at h
    · split at h <;> cases h
      · exact woundDown r _ head
      · exact answered r _ _ head .unchanged
    · cases h
      exact unchanged

theorem execFiring_effect {handle : Nat} (h : execFiring handle s = .next t) : CommandEffect s t := by
  unfold execFiring at h
  split at h
  · rename_i a found
    exact event_effect (fun _ => .fired a (List.mem_of_find?_eq_some found)) h
  · cases h
    exact unchanged

theorem execLinkBreak_effect {pins : PinSample} (h : execLinkBreak pins s = .next t) : CommandEffect s t := by
  refine event_effect (fun _ => ?_) h
  split
  · exact .link (.brokenWhilePending pins ‹_›)
  · exact .link (.linkReset (Bool.not_eq_true _ ▸ ‹_›))

/-- Every command does one of the things listed. -/
theorem exec_effect {c : Instr} (h : exec c s = .next t) : CommandEffect s t := by
  cases c with
  | powerOn pins => cases h; exact poweredOn pins
  | resetNLow => exact execResetNLow_effect h
  | resetNRelease pins => exact execResetNRelease_effect h
  | queryStatus => exact take_effect (bare_effect _ .unchanged) h
  | resetSchedule => exact take_effect (parsed_effect _ fun _ => .scheduleReset) h
  | resetJournal => exact take_effect (parsed_effect _ fun _ => .reports .journalReset) h
  | resetTimescale => exact take_effect (parsed_effect _ fun _ => .timescaleReset) h
  | resetPart => exact execResetPart_effect h
  | queryTime => exact take_effect (bare_effect _ .unchanged) h
  | setTime => exact take_effect (parsed_effect _ (stageLoad_effect _)) h
  | cancelSet => exact take_effect (bare_effect _ .loadCancelled) h
  | adjustTime => exact take_effect (parsed_effect _ (adjustSlew_effect _)) h
  | stepTime => exact take_effect (parsed_effect _ (stepTime_effect _)) h
  | setPathConfig => exact take_effect (parsed_effect _ (configurePath_effect _)) h
  | pathControlRestart =>
    exact take_effect
      (parsed_effect (read := readPathControl) (owner := fun c => restartPath c.1) _ fun c => restartPath_effect _ c.1) h
  | pathControlEnable =>
    exact take_effect
      (parsed_effect (read := readPathControl) (owner := fun c => enablePath c.1) _ fun c => enablePath_effect _ c.1) h
  | pathControlDisable =>
    exact take_effect
      (parsed_effect (read := readPathControl) (owner := fun c => disablePath c.1) _ fun c => disablePath_effect _ c.1) h
  | queryPaths => exact take_effect (bare_effect _ .unchanged) h
  | setDisciplineConfig => exact take_effect (parsed_effect _ (configureDiscipline_effect _)) h
  | admitEntry => exact take_effect (parsed_effect _ (admitEntry_effect _)) h
  | withdrawEntry => exact take_effect (parsed_effect _ (withdraw_effect _)) h
  | queryEntry => exact take_effect (parsed_effect _ (queryEntry_effect _)) h
  | listSchedule => exact take_effect (bare_effect _ .unchanged) h
  | setLineConfig => exact take_effect (parsed_effect _ (configureLine_effect _)) h
  | driveLine => exact take_effect (parsed_effect _ (driveLine_effect _)) h
  | queryLines => exact take_effect (bare_effect _ .unchanged) h
  | setCaptureConfig => exact take_effect (parsed_effect _ (configureCapture_effect _)) h
  | readJournal => exact take_effect (parsed_effect _ (readRecords_effect _)) h
  | setAttention => exact take_effect (parsed_effect _ (setAttention_effect _)) h
  | ackAttention => exact take_effect (parsed_effect _ fun set => .reports (.attentionAcknowledged set)) h
  | unknownKind => exact take_effect (fun _ => .unchanged) h
  | frameReceived last => exact event_effect (fun _ => .link (.byteReceived last)) h
  | frameLengthError len => exact event_effect (fun _ => .link (.byteReceived len)) h
  | gapLimitExpiry =>
    exact event_effect (effect := fun u => loseFrame .truncated (toHunt u))
      (fun _ => .link .frameAbandoned) h
  | linkBreak pins => exact execLinkBreak_effect h
  | breakRelease => exact event_effect (fun _ => .link .breakEnded) h
  | frameTransmitStart => exact event_effect (fun _ => .link .frameBegan) h
  | frameTransmitEnd pins => exact event_effect (fun _ => .link (.frameEnded pins)) h
  | secondBoundary => exact event_effect .boundaryCarried h
  | anchorHoldEnd => exact event_effect (fun _ => .holdEnded) h
  | firing handle => exact execFiring_effect h
  | referenceStep p mark => exact event_effect (fun _ => .stepTaken p _) h
  | stepWindowExpiry p => exact event_effect (.windowExpired p) h
  | silenceTimerExpiry p => exact event_effect (fun _ => .pathTimedOut p) h
  | holdOffTimerExpiry p => exact event_effect (fun _ => .pathTimedOut p) h
  | holdoverTimerExpiry => exact event_effect (fun _ => .holdoverExpired) h
  | trailingEdgeExpiry i => exact event_effect (fun _ => .pulseEnded i) h
  | captureEdge i level =>
    exact event_effect (effect := fun u => takeSample i level (markSampled i u))
      (fun _ => .sampled i level) h
  | deadTimeExpiry i => exact event_effect (fun _ => .deadTimeEnded i) h
  | byteReceived b => exact event_effect (fun _ => .link (.byteReceived b)) h
  | transmitterStops pins => exact event_effect (fun _ => .link (.frameStopped pins)) h
  | powerOff => cases h; exact poweredOff

/-- An own event that is due joins the empty queue, and nothing but the count of choices changes beside it. -/
theorem bringDue_effect (c : Instr) (more : List Instr) : StepEffect s (bringDue c more s) := by
  unfold bringDue pick
  cases more with
  | nil => exact .queued [c] s.choices
  | cons d more => exact .queued [_] (s.choices + 1)

/-- A step is a command, a tick, or an own event that joins the queue. -/
theorem step_effect (h : step s = .next t) : StepEffect s t := by
  unfold step at h
  split at h
  · exact .command _ t (exec_effect h)
  · cases h
    unfold idle
    split
    · exact .ticked
    · exact bringDue_effect _ _

end Commands

end Sys2Proof.Machine

/-! PROOFS. The journal, the link controller and the attention unit: what every effect of a step keeps of them. -/

namespace Sys2Proof.Machine

/-! ## Work that leaves the link but for a NOTICE -/

/-- `t` comes from `s` by work outside the link controller: of the link at most one NOTICE has been queued, into the free
notice place. -/
structure LinkKept (s t : State) : Prop where
  run : t.run = s.run
  elapsed : t.elapsed = s.elapsed
  pending : t.pending = s.pending
  shown : t.shown = s.shown
  link : t.link = { s.link with outbound := t.link.outbound }
  outbound : t.link.outbound = s.link.outbound ∨
    (noticePlaceFree s.link = true ∧ t.link.outbound = s.link.outbound ++ [.notice])

/-- Work of the inner blocks besides: the journal stays whole, and what is to be notified has its NOTICE. -/
structure InnerWork (s t : State) : Prop extends LinkKept s t where
  journal : JournalOk s.journal → JournalOk t.journal
  notice : NoticeOk s → NoticeOk t

/-- `u` agrees with `s` in all that inner work is judged by. -/
structure SameReports (s u : State) : Prop where
  run : u.run = s.run
  elapsed : u.elapsed = s.elapsed
  pending : u.pending = s.pending
  shown : u.shown = s.shown
  journal : u.journal = s.journal
  attn : u.attn = s.attn
  link : u.link = s.link

theorem SameReports.notice {s u : State} (h : SameReports s u) : NoticeOk u ↔ NoticeOk s := by
  unfold NoticeOk
  rw [h.attn, h.link]

theorem LinkKept.of_internal {s u t : State} (same : SameReports s u) (h : Internal u t) : LinkKept s t where
  run := h.run.trans same.run
  elapsed := h.elapsed.trans same.elapsed
  pending := h.pending.trans same.pending
  shown := h.shown.trans same.shown
  link := by rw [h.link, same.link]
  outbound := by simpa only [same.link] using h.outbound

/-- An operation of the inner blocks is inner work, also after changes that the reports do not show. -/
theorem InnerWork.of_internal {s u t : State} (same : SameReports s u) (h : Internal u t) : InnerWork s t where
  toLinkKept := .of_internal same h
  journal := by simpa only [same.journal] using h.journal
  notice := by simpa only [same.notice] using h.notice

theorem InnerWork.of_same {s t : State} (same : SameReports s t) : InnerWork s t := .of_internal same (.refl t)

/-- An operation of the inner blocks is inner work. -/
theorem Internal.innerWork {s t : State} (h : Internal s t) : InnerWork s t :=
  .of_internal ⟨rfl, rfl, rfl, rfl, rfl, rfl, rfl⟩ h

/-! ## Operations that the laws of the inner blocks leave out -/

section Operations

variable (s : State)

theorem judgeNotice_internal : Internal s (judgeNotice s) := by
  have judged := judgeNotice_noticeOk s
  rcases judgeNotice_cases s with e | ⟨_, free, e⟩ <;> rw [e] at judged ⊢
  · exact .refl s
  · exact ⟨rfl, rfl, rfl, rfl, rfl, .inr ⟨free, rfl⟩, id, fun _ => judged, rfl, rfl, rfl⟩

theorem judgeThreshold_internal (old : Nat) : Internal s (judgeThreshold old s) := by
  unfold judgeThreshold
  dsimp only
  split
  · exact raise_internal s _
  · exact .refl s

theorem armWaiting_internal (i : Fin 4) : Internal s (armWaiting i s) := by
  have all (l : List Entry) (t : State) :
      Internal t (l.foldl (fun t e => arm (armedAt s.ts.now e) t) t) := by
    induction l generalizing t with
    | nil => exact .refl t
    | cons e l ih => exact (arm_internal t _).trans (ih _)
  exact (setWaiting_internal s i []).trans (all _ _)

theorem acceptEdge_internal (i : Fin 4) (e : Edge) : Internal s (acceptEdge i e s) := by
  unfold acceptEdge
  dsimp only
  have armed : Internal s
      (armWaiting i
        (if s.caps[i].record then
          appendRecord (.capture i e s.ts.timeState s.disc.state) (setCap i s.caps[i].startDeadTime s)
        else setCap i s.caps[i].startDeadTime s)) := by
    refine Internal.trans ?_ (armWaiting_internal _ i)
    split
    · exact (setCap_internal s i _).trans (appendRecord_internal _ _)
    · exact setCap_internal s i _
  split
  · exact armed.trans (setCap_internal _ i _)
  · exact armed

theorem takeSample_internal (i : Fin 4) (level : Level) : Internal s (takeSample i level s) := by
  unfold takeSample
  split
  · exact .refl s
  · dsimp only
    split
    · exact (setCap_internal s i _).trans (acceptEdge_internal _ i _)
    · exact setCap_internal s i _

theorem countAdmission_internal : Internal s (countAdmission s) := .of_eq rfl rfl rfl rfl rfl rfl rfl rfl rfl

theorem removeEntry_internal (handle : Nat) : Internal s (removeEntry handle s) :=
  .of_eq rfl rfl rfl rfl rfl rfl rfl rfl rfl

theorem scheduleReset_internal : Internal s (scheduleReset s) := .of_eq rfl rfl rfl rfl rfl rfl rfl rfl rfl

theorem admitLateFire_internal (a : ArmedEntry) (passed : Nat) : Internal s (admitLateFire a passed s) :=
  ((fireAction_internal s true a.entry).trans (raise_internal _ _)).trans (settle_internal _ _ _ _)

theorem admitLateSkip_internal (a : ArmedEntry) (passed : Nat) : Internal s (admitLateSkip a passed s) :=
  (settle_internal s _ _ _).trans (raise_internal _ _)

theorem admitChecked_internal (d : Descriptor) : Internal s (admitChecked d s).2 := by
  have counted := countAdmission_internal s
  unfold admitChecked
  dsimp only
  split
  · exact counted.trans (joinWaiting_internal _ _ _)
  · split
    · exact counted.trans (arm_internal _ _)
    · split
      · exact counted.trans (admitLateFire_internal _ _ _)
      · split
        · exact .refl s
        · exact counted.trans (admitLateSkip_internal _ _ _)

theorem stepTo_internal (forward : Bool) (new : TimeValue) : Internal s (stepTo forward new s) :=
  ((setTs_internal s _).trans (declareEra_internal _ _)).trans (takeJump_internal _ _ _ _)

theorem timescaleReset_internal : Internal s (timescaleReset s) :=
  (((abandonFreeSlew_internal s).trans (setTs_internal _ _)).trans (declareEra_internal _ _)).trans
    (scheduleReset_internal _)

theorem applyConfig_internal (limit : Nat) : Internal s (applyConfig limit s) := by
  have chosen : Internal s { s with choices := s.choices + 1 } := .of_eq rfl rfl rfl rfl rfl rfl rfl rfl rfl
  rcases applyConfig_cases s limit with ⟨_, e⟩ | ⟨_, e | e⟩ <;> rw [e]
  · exact (applyHoldoverLimit_internal s).trans (evaluate_internal _)
  · exact (chosen.trans (applyHoldoverLimit_internal _)).trans (evaluate_internal _)
  · exact (chosen.trans (evaluate_internal _)).trans (applyHoldoverLimit_internal _)

end Operations

/-! ## What the effects of a step are for the reports -/

section Reports

variable {s t : State}

theorem storeRecord_linkKept (body : RecordBody) (s : State) : LinkKept s (storeRecord body s) := by
  by_cases level : s.journal.records.length + 1 = s.journal.threshold
  · rw [storeRecord_at_threshold s body level]
    have h := raise_internal (withRecord body s) .journalLevel
    exact ⟨h.run, h.elapsed, h.pending, h.shown, h.link, h.outbound⟩
  · rw [storeRecord_off_threshold s body level]
    exact ⟨rfl, rfl, rfl, rfl, rfl, .inl rfl⟩

/-- The requests of the journal and of the attention unit leave the link but for a NOTICE. -/
theorem ReportRequest.linkKept (h : ReportRequest s t) : LinkKept s t := by
  cases h with
  | journalReset => exact ⟨rfl, rfl, rfl, rfl, rfl, .inl rfl⟩
  | journalRead drop most =>
    have released : LinkKept s (release drop s) := by
      unfold release
      dsimp only
      split
      · have stored := storeRecord_linkKept (.gap s.journal.missed s.journal.firstMissed) (endOverrun (dropRecords drop s))
        exact ⟨stored.run, stored.elapsed, stored.pending, stored.shown, stored.link, stored.outbound⟩
      · exact ⟨rfl, rfl, rfl, rfl, rfl, .inl rfl⟩
    exact ⟨released.run, released.elapsed, released.pending, released.shown, released.link, released.outbound⟩
  | attentionSet c range =>
    unfold setAttention
    rw [if_pos range]
    have judged := judgeThreshold_internal (subscribe c.1 c.2 s) s.journal.threshold
    have done : Internal (subscribe c.1 c.2 s)
        (if (newlyRaised s.attn.subscribed (judgeThreshold s.journal.threshold (subscribe c.1 c.2 s)).attn).any id then
          judgeNotice (judgeThreshold s.journal.threshold (subscribe c.1 c.2 s))
        else judgeThreshold s.journal.threshold (subscribe c.1 c.2 s)) := by
      split
      · exact judged.trans (judgeNotice_internal _)
      · exact judged
    exact ⟨done.run, done.elapsed, done.pending, done.shown, done.link, done.outbound⟩
  | attentionAcknowledged set =>
    unfold acknowledge
    have done : Internal (quietKinds set s)
        (if set[AttnKind.journalLevel.idx] ∧ s.journal.threshold ≤ s.journal.records.length then
          raise .journalLevel (quietKinds set s)
        else quietKinds set s) := by
      split
      · exact raise_internal _ _
      · exact .refl _
    exact ⟨done.run, done.elapsed, done.pending, done.shown, done.link, done.outbound⟩

/-- The owner of a taken request does inner work, or it is the journal or the attention unit itself. -/
theorem RequestEffect.innerWork (h : RequestEffect s t) : InnerWork s t ∨ ReportRequest s t := by
  cases h with
  | unchanged => exact .inl (Internal.refl s).innerWork
  | scheduleReset => exact .inl (scheduleReset_internal s).innerWork
  | timescaleReset => exact .inl (timescaleReset_internal s).innerWork
  | loadStaged v => exact .inl (setTs_internal s _).innerWork
  | loadCancelled => exact .inl (setTs_internal s _).innerWork
  | slewAdjusted total => exact .inl (setTs_internal s _).innerWork
  | timeStepped forward n => exact .inl (stepTo_internal s _ _).innerWork
  | pathConfigured p c => exact .inl (setMon_internal s p _).innerWork
  | pathRefreshed p => exact .inl (setMon_internal s p _).innerWork
  | pathRestarted p => exact .inl (changePath_internal s p _ _).innerWork
  | pathDisabled p => exact .inl (changePath_internal s p _ _).innerWork
  | disciplineConfigured c =>
    exact .inl (.of_internal (u := setDisc { s.disc with config := c } s) ⟨rfl, rfl, rfl, rfl, rfl, rfl, rfl⟩
      (applyConfig_internal _ _))
  | entryAdmitted raw d => exact .inl (admitChecked_internal s d).innerWork
  | entryWithdrawn handle e =>
    exact .inl ((removeEntry_internal s handle).trans (reportRemoved_internal _ _ _)).innerWork
  | lineConfigured i => exact .inl (setLine_internal s i _).innerWork
  | lineDriven i => exact .inl (setLine_internal s i _).innerWork
  | captureConfigured i c => exact .inl (setCap_internal s i c).innerWork
  | reports effect => exact .inr effect

theorem RequestEffect.linkKept (h : RequestEffect s t) : LinkKept s t :=
  h.innerWork.elim InnerWork.toLinkKept ReportRequest.linkKept

/-- An event of the running part does inner work, or it is one of the link controller. -/
theorem EventEffect.innerWork (h : EventEffect s t) : InnerWork s t ∨ LinkEvent s t := by
  cases h with
  | boundaryCarried => exact .inl (carryBoundary_internal s).innerWork
  | holdEnded => exact .inl (setTs_internal s _).innerWork
  | fired a => exact .inl (fireOrdinary_internal s a).innerWork
  | stepTaken p marked => exact .inl (takeStep_internal s p marked).innerWork
  | windowExpired p => exact .inl (expireWindow_internal s p).innerWork
  | pathTimedOut p => exact .inl (changePath_internal s p _ _).innerWork
  | holdoverExpired => exact .inl (expireHoldover_internal s).innerWork
  | pulseEnded i => exact .inl (endPulse_internal s i).innerWork
  | sampled i level => 
    exact .inl (.of_internal (u := markSampled i s) ⟨rfl, rfl, rfl, rfl, rfl, rfl, rfl⟩ (takeSample_internal _ i level))
  | deadTimeEnded i => exact .inl (setCap_internal s i _).innerWork
  | link effect => exact .inr effect

/-- One tick is inner work but for the elapsed clock, and the pins come to the levels of the lines. -/
theorem tick_reports (s : State) :
    ∃ u, Internal u (tick s) ∧ u.run = s.run ∧ u.pending = s.pending ∧ u.journal = s.journal ∧ u.attn = s.attn ∧
      u.link = s.link := by
  by_cases running : s.run = .running
  · rw [tick_running s running]
    exact ⟨_, tickTimescale_internal _, rfl, rfl, rfl, rfl, rfl⟩
  · rw [tick_stopped s running]
    exact ⟨_, .refl _, rfl, rfl, rfl, rfl, rfl⟩

end Reports

/-! ## The journal (R139 to R142) -/

section Journal

variable {s t : State}

/-- The numbering of the records that are left when records leave from the head (R139). -/
theorem numbered_drop {j : Journal} (h : numbered j) (count : Nat) :
    numbered { j with records := j.records.drop count } := by
  unfold numbered at h ⊢
  dsimp only
  rw [List.map_drop, h, List.length_drop]
  refine List.ext_getElem (by simp) fun i h1 h2 => ?_
  simp only [List.getElem_drop, List.getElem_map, List.getElem_range]
  congr 2
  omega

/-- A release leaves the journal whole, with the delivered count of the read that follows it (R143, R146). -/
theorem journalRead_journalOk {drop : Nat} (most : Nat) (delivered : drop ≤ s.journal.delivered)
    (h : JournalOk s.journal) :
    JournalOk (setDelivered (returned most (release drop s)).length (release drop s)).journal := by
  have fill := h.fill
  have within := h.delivered
  by_cases gap : s.journal.overrun ∧ 1 ≤ drop
  · have stored : release drop s =
        storeRecord (.gap s.journal.missed s.journal.firstMissed) (endOverrun (dropRecords drop s)) := if_pos gap
    have numbers := storeRecord_numbered (endOverrun (dropRecords drop s))
      (.gap s.journal.missed s.journal.firstMissed) (numbered_drop h.numbers drop)
    rw [stored]
    rw [storeRecord_journal] at numbers
    simp only [setDelivered_journal, storeRecord_journal, returned]
    refine ⟨?_, List.length_take_le' _ _, h.threshold, nofun, fun _ => ⟨rfl, rfl⟩, numbers⟩
    simp [endOverrun, dropRecords]
    omega
  · have kept : release drop s = dropRecords drop s := if_neg gap
    rw [kept]
    refine ⟨?_, List.length_take_le' _ _, h.threshold, fun overrun => ?_, h.calm, numbered_drop h.numbers drop⟩
    · simp [dropRecords]
      omega
    · have none : drop = 0 := by
        by_contra some
        exact gap ⟨overrun, by omega⟩
      subst none
      exact h.overrun overrun

theorem ReportRequest.journalOk (h : ReportRequest s t) (ok : JournalOk s.journal) : JournalOk t.journal := by
  cases h with
  | journalReset => exact ⟨Nat.zero_le _, Nat.le_refl _, ok.threshold, nofun, fun _ => ⟨rfl, rfl⟩, rfl⟩
  | journalRead drop most delivered => exact journalRead_journalOk most delivered ok
  | attentionSet c range =>
    have threshold : JournalOk (subscribe c.1 c.2 s).journal :=
      ⟨ok.fill, ok.delivered, range, ok.overrun, ok.calm, ok.numbers⟩
    have judged := (judgeThreshold_internal (subscribe c.1 c.2 s) s.journal.threshold).journal threshold
    unfold setAttention
    rw [if_pos range]
    dsimp only
    split
    · exact (judgeNotice_internal _).journal judged
    · exact judged
  | attentionAcknowledged set =>
    unfold acknowledge
    dsimp only
    split
    · exact (raise_internal _ _).journal ok
    · exact ok

theorem loseFrame_internal (s : State) (cause : LinkError) :
    Internal { s with link := { s.link with totals := s.link.totals.bump cause, lastError := some cause } }
      (loseFrame cause s) := raise_internal _ _

theorem loseFrame_journal (s : State) (cause : LinkError) : (loseFrame cause s).journal = s.journal :=
  raise_journal _ _

theorem replyOnReceipt_journal (s : State) (frame : List Byte) : (replyOnReceipt frame s).journal = s.journal := by
  unfold replyOnReceipt
  split
  · rfl
  · exact loseFrame_journal s _

theorem acceptFrame_journal (s : State) (r : Request) : (acceptFrame r s).journal = s.journal := by
  unfold acceptFrame
  split
  · rfl
  · split
    · rfl
    · split
      · exact replyOnReceipt_journal s _
      · split
        · exact replyOnReceipt_journal s _
        · split
          · rfl
          · exact loseFrame_journal s _

theorem receive_journal (s : State) (b : Byte) : (receive b s).journal = s.journal := by
  unfold receive
  split
  · split <;> rfl
  · split
    · rfl
    · exact loseFrame_journal _ _
  · dsimp only
    split
    · rfl
    · unfold checkFrame
      split
      · exact acceptFrame_journal _ _
      · exact loseFrame_journal _ _
  · rfl

theorem judgeNotice_journal (s : State) : (judgeNotice s).journal = s.journal := by
  rcases judgeNotice_cases s with e | ⟨_, _, e⟩ <;> rw [e]
  rfl

theorem beginHead_journal (s : State) : (beginHead s).journal = s.journal := by
  unfold beginHead
  split
  · rfl
  · rfl
  · exact judgeNotice_journal _
  · exact judgeNotice_journal _

theorem journalOk_reset : JournalOk Journal.reset :=
  ⟨by decide, by decide, by decide, nofun, fun _ => ⟨rfl, rfl⟩, rfl⟩

/-- The events of the link leave the journal, but for a full reset and the delivered count after a break (R180). -/
theorem LinkEvent.journalOk (h : LinkEvent s t) (ok : JournalOk s.journal) : JournalOk t.journal := by
  cases h with
  | byteReceived b => rwa [receive_journal]
  | frameAbandoned => rwa [loseFrame_journal]
  | brokenWhilePending pins =>
    unfold breakWhilePending
    split
    · exact ok
    · exact journalOk_reset
  | linkReset => exact ⟨ok.fill, Nat.zero_le _, ok.threshold, ok.overrun, ok.calm, ok.numbers⟩
  | breakEnded => exact ok
  | frameBegan => rwa [beginHead_journal]
  | frameEnded pins =>
    unfold endFrame
    split
    · exact journalOk_reset
    · dsimp only
      split
      · rwa [beginHead_journal]
      · exact ok
  | frameStopped pins =>
    unfold stopTransmitter
    split
    · exact journalOk_reset
    · exact ok

theorem CommandEffect.journalOk (h : CommandEffect s t) (ok : JournalOk s.journal) : JournalOk t.journal := by
  cases h with
  | unchanged => exact ok
  | poweredOn pins => exact journalOk_reset
  | heldInReset => exact journalOk_reset
  | released pins => exact journalOk_reset
  | poweredOff => exact ok
  | answered r rep u head effect => exact effect.innerWork.elim (·.journal ok) (·.journalOk ok)
  | woundDown r rep => exact ok
  | event _ running effect => exact effect.innerWork.elim (·.journal ok) (·.journalOk ok)

/-- Settles O53, by cases over the effects of a step. -/
theorem journalStaysWhole : Obligations.JournalStaysWhole := by
  intro s t ok h
  cases step_effect h with
  | command rest _ effect => exact effect.journalOk ok
  | ticked =>
    obtain ⟨u, inner, _, _, journal, _, _⟩ := tick_reports s
    exact inner.journal (journal ▸ ok)
  | queued => exact ok

end Journal

end Sys2Proof.Machine

/-! PROOFS. The link controller stays within its places, and what is to be notified has its NOTICE waiting. -/

namespace Sys2Proof.Machine

/-! ## The places of the link (R156, R171) -/

section Link

variable {s t : State}

/-- An own frame at the tail takes no reply place. -/
theorem placesUsed_append_own (l : Link) (f : OutFrame) (h : f.isOwn = true) :
    placesUsed { l with outbound := l.outbound ++ [f] } = placesUsed l := by
  simp [placesUsed, OutFrame.isReply, h]

/-- A reply at the tail takes one reply place. -/
theorem placesUsed_append_reply (l : Link) (o : ReplyOrigin) (frame : List Byte) :
    placesUsed { l with outbound := l.outbound ++ [.reply o frame] } = placesUsed l + 1 := by
  simp [placesUsed, OutFrame.isReply, OutFrame.isOwn]
  omega

/-- With the notice place free no own frame waits (R156). -/
theorem own_of_free {l : Link} (h : noticePlaceFree l = true) : l.outbound.filter OutFrame.isOwn = [] := by
  simpa [noticePlaceFree, List.filter_eq_nil_iff] using h

/-- A NOTICE in the free notice place keeps the link within its places. -/
theorem LinkOk.notice {l : Link} (ok : LinkOk l) (free : noticePlaceFree l = true) :
    LinkOk { l with outbound := l.outbound ++ [.notice] } where
  requests := ok.requests
  places := by rw [placesUsed_append_own l .notice rfl]; exact ok.places
  own := by rw [List.filter_append, own_of_free free]; decide
  cache := ok.cache
  windDown := ok.windDown
  receiver := ok.receiver

theorem LinkKept.linkOk (h : LinkKept s t) (ok : LinkOk s.link) : LinkOk t.link := by
  rw [h.link]
  rcases h.outbound with same | ⟨free, queued⟩
  · rw [same]
    exact ok
  · rw [queued]
    exact ok.notice free

theorem LinkKept.placesUsed (h : LinkKept s t) : placesUsed t.link = placesUsed s.link := by
  rw [h.link]
  rcases h.outbound with same | ⟨_, queued⟩
  · rw [same]
  · rw [queued, placesUsed_append_own _ _ rfl]

/-- Taking the head request frees its place (R171). -/
theorem LinkOk.dequeued {r : Request} {rest : List Request} (ok : LinkOk s.link) (head : s.link.requests = r :: rest) :
    LinkOk (dequeueRequest s).link ∧ Machine.placesUsed (dequeueRequest s).link ≤ 10 := by
  have requests := ok.requests
  have places := ok.places
  rw [head, List.length_cons] at requests
  simp only [Machine.placesUsed, head, List.length_cons] at places
  have left : Machine.placesUsed (dequeueRequest s).link ≤ 10 := by
    simp only [Machine.placesUsed, dequeueRequest_link, head, List.tail_cons]
    omega
  refine ⟨⟨?_, by omega, ok.own, ok.cache, fun pending => ?_, ok.receiver⟩, left⟩
  · simp [head]
    omega
  · simpa [head] using ok.windDown pending

/-- A reply keeps the link within its places while one is free. -/
theorem LinkOk.answered (ok : LinkOk s.link) (room : Machine.placesUsed s.link ≤ 10) (o : ReplyOrigin) (r : Request)
    (rep : Reply) : LinkOk (answer o r rep s).link where
  requests := ok.requests
  places := by
    have := placesUsed_append_reply s.link o (replyFrame r.kind r.seq rep)
    simp only [Machine.placesUsed, answer_link] at this room ⊢
    omega
  own := by simpa [List.filter_append, OutFrame.isOwn] using ok.own
  cache := pushCache_length _ _ ok.cache
  windDown := ok.windDown
  receiver := ok.receiver

/-! ## The receiver -/

theorem LinkOk.hunt (ok : LinkOk s.link) : LinkOk (toHunt s).link :=
  ⟨ok.requests, ok.places, ok.own, ok.cache, ok.windDown, rfl⟩

theorem loseFrame_linkOk (cause : LinkError) (ok : LinkOk s.link) : LinkOk (loseFrame cause s).link := by
  have counted : LinkOk { s.link with totals := s.link.totals.bump cause, lastError := some cause } :=
    ⟨ok.requests, ok.places, ok.own, ok.cache, ok.windDown, ok.receiver⟩
  exact (loseFrame_internal s cause).innerWork.toLinkKept.linkOk counted

theorem replyOnReceipt_linkOk (frame : List Byte) (ok : LinkOk s.link) : LinkOk (replyOnReceipt frame s).link := by
  unfold replyOnReceipt
  split
  · rename_i room
    refine ⟨ok.requests, ?_, ?_, ok.cache, ok.windDown, ok.receiver⟩
    · rw [queueFrame_link, placesUsed_append_reply]
      exact room
    · simpa [List.filter_append, OutFrame.isOwn] using ok.own
  · exact loseFrame_linkOk _ ok

theorem queueRequest_linkOk (r : Request) (ok : LinkOk s.link) (running : s.link.partPending = false)
    (room : s.link.requests.length < 4) (place : Machine.placesUsed s.link < 11) :
    LinkOk (queueRequest r s).link where
  requests := by simp [queueRequest]; omega
  places := by
    simp only [Machine.placesUsed, queueRequest, List.length_append, List.length_singleton] at place ⊢
    omega
  own := ok.own
  cache := ok.cache
  windDown := fun pending => by rw [show s.link.partPending = true from pending] at running; cases running
  receiver := ok.receiver

theorem acceptFrame_linkOk (r : Request) (ok : LinkOk s.link) : LinkOk (acceptFrame r s).link := by
  unfold acceptFrame
  split
  · exact ok
  · rename_i notPending
    split
    · exact ok
    · split
      · exact replyOnReceipt_linkOk _ ok
      · split
        · exact replyOnReceipt_linkOk _ ok
        · rename_i room
          split
          · rename_i place
            exact queueRequest_linkOk r ok (Bool.not_eq_true _ ▸ notPending) (Nat.lt_of_not_le room) place
          · exact loseFrame_linkOk _ ok

/-- The first byte of a partial frame stays LEN when another byte comes. -/
theorem byteAt_zero_append {bytes : List Byte} (h : 1 ≤ bytes.length) (b : Byte) :
    (bytes ++ [b]).getD 0 0#8 = bytes.getD 0 0#8 := by
  cases bytes with
  | nil => cases h
  | cons => rfl

theorem receive_linkOk (b : Byte) (ok : LinkOk s.link) : LinkOk (receive b s).link := by
  have receiver := ok.receiver
  unfold receiverOk at receiver
  unfold receive
  cases rx : s.link.rx with
  | hunt =>
    dsimp only
    split
    · exact ⟨ok.requests, ok.places, ok.own, ok.cache, ok.windDown, rfl⟩
    · exact ok
  | length =>
    dsimp only
    split
    · rename_i length
      refine ⟨ok.requests, ok.places, ok.own, ok.cache, ok.windDown, length, Nat.le_refl _, ?_⟩
      simp [wholeLength]
    · exact loseFrame_linkOk _ ok.hunt
  | body =>
    rw [rx] at receiver
    obtain ⟨length, some, _⟩ := receiver
    dsimp only
    split
    · rename_i short
      refine ⟨ok.requests, ok.places, ok.own, ok.cache, ok.windDown, ?_, ?_, short⟩
      · rwa [setReceiver_link, byteAt_zero_append some]
      · simp
    · unfold checkFrame
      split
      · exact acceptFrame_linkOk _ ok.hunt
      · exact loseFrame_linkOk _ ok.hunt
  | check =>
    rw [rx] at receiver
    exact receiver.elim

/-! ## The transmitter and breaks -/

theorem LinkOk.begun {f : OutFrame} {rest : List OutFrame} {l : Link} (ok : LinkOk l) (head : l.outbound = f :: rest)
    (tx : Option Sending) (seq : Byte) : LinkOk { l with outbound := rest, tx := tx, unsolicitedSeq := seq } := by
  have fewer (p : OutFrame → Bool) : (rest.filter p).length ≤ (l.outbound.filter p).length := by
    rw [head]
    exact ((List.sublist_cons_self f rest).filter p).length_le
  refine ⟨ok.requests, ?_, Nat.le_trans (fewer _) ok.own, ok.cache, ok.windDown, ok.receiver⟩
  exact Nat.le_trans (Nat.add_le_add_left (fewer _) _) ok.places

theorem judgeNotice_linkOk (ok : LinkOk s.link) : LinkOk (judgeNotice s).link :=
  (judgeNotice_internal s).innerWork.toLinkKept.linkOk ok

theorem beginHead_linkOk (ok : LinkOk s.link) : LinkOk (beginHead s).link := by
  unfold beginHead
  split
  · exact ok
  · rename_i head
    exact ok.begun head _ _
  · rename_i rest head
    exact judgeNotice_linkOk (s := beginOwn rest _ _ (notifyRaised s)) (ok.begun head _ _)
  · rename_i rest head
    exact judgeNotice_linkOk (s := beginOwn rest _ _ s) (ok.begun head _ _)

theorem linkOk_start (l : Link) (requests : l.requests = []) (outbound : (∃ c, l.outbound = [.announce c]) ∨ l.outbound = [])
    (cache : l.cache = []) (receiver : l.rx = .hunt ∧ l.rxBytes = []) : LinkOk l := by
  refine ⟨by simp [requests], ?_, ?_, by simp [cache], fun _ => requests, ?_⟩
  · rcases outbound with ⟨c, o⟩ | o <;> simp [Machine.placesUsed, requests, o, OutFrame.isReply, OutFrame.isOwn]
  · rcases outbound with ⟨c, o⟩ | o <;> rw [o]
    · exact Nat.le_refl _
    · exact Nat.zero_le _
  · rw [receiverOk, receiver.1]
    exact receiver.2

theorem fullReset_linkOk (cause : StartCause) (inBreak : Bool) (pins : PinSample) (s : State) :
    LinkOk (fullReset cause inBreak pins s).link :=
  linkOk_start _ rfl (.inl ⟨_, rfl⟩) rfl ⟨rfl, rfl⟩

theorem LinkOk.silent (ok : LinkOk s.link) : LinkOk { s.link with tx := none } :=
  ⟨ok.requests, ok.places, ok.own, ok.cache, ok.windDown, ok.receiver⟩

theorem LinkEvent.linkOk (h : LinkEvent s t) (ok : LinkOk s.link) : LinkOk t.link := by
  cases h with
  | byteReceived b => exact receive_linkOk b ok
  | frameAbandoned => exact loseFrame_linkOk _ ok.hunt
  | brokenWhilePending pins =>
    unfold breakWhilePending
    split
    · exact ⟨ok.requests, ok.places, ok.own, ok.cache, ok.windDown, rfl⟩
    · exact fullReset_linkOk _ _ _ _
  | linkReset notPending => exact linkOk_start _ rfl (.inl ⟨_, rfl⟩) rfl ⟨rfl, rfl⟩
  | breakEnded => exact ⟨ok.requests, ok.places, ok.own, ok.cache, ok.windDown, rfl⟩
  | frameBegan => exact beginHead_linkOk ok
  | frameEnded pins =>
    unfold endFrame
    split
    · exact fullReset_linkOk _ _ _ _
    · dsimp only
      split
      · exact beginHead_linkOk (s := idleTransmitter s) ok.silent
      · exact ok.silent
  | frameStopped pins =>
    unfold stopTransmitter
    split
    · exact fullReset_linkOk _ _ _ _
    · exact ok.silent

theorem CommandEffect.linkOk (h : CommandEffect s t) (ok : LinkOk s.link) : LinkOk t.link := by
  cases h with
  | unchanged => exact ok
  | poweredOn pins => exact fullReset_linkOk _ _ _ _
  | heldInReset => exact linkOk_start _ rfl (.inr rfl) rfl ⟨rfl, rfl⟩
  | released pins => exact fullReset_linkOk _ _ _ _
  | poweredOff => exact ok.silent
  | answered r rep u head effect =>
    obtain ⟨_, _, _, rest, requests⟩ := headRequest_some s head
    obtain ⟨taken, room⟩ := ok.dequeued requests
    exact (effect.linkKept.linkOk taken).answered (effect.linkKept.placesUsed ▸ room) _ r rep
  | woundDown r rep head =>
    obtain ⟨_, _, _, rest, requests⟩ := headRequest_some s head
    obtain ⟨taken, room⟩ := ok.dequeued requests
    have done := taken.answered room .partReset r rep
    refine ⟨Nat.zero_le _, ?_, done.own, done.cache, fun _ => rfl, done.receiver⟩
    have places := done.places
    simp only [windDown, Machine.placesUsed, List.length_nil] at places ⊢
    omega
  | event _ running effect => exact effect.innerWork.elim (·.toLinkKept.linkOk ok) (·.linkOk ok)

/-- Settles O54, by cases over the effects of a step. -/
theorem linkStaysWithinItsPlaces : Obligations.LinkStaysWithinItsPlaces := by
  intro s t ok h
  cases step_effect h with
  | command rest _ effect => exact effect.linkOk ok
  | ticked =>
    obtain ⟨u, inner, _, _, _, _, link⟩ := tick_reports s
    exact inner.innerWork.toLinkKept.linkOk (link ▸ ok)
  | queued => exact ok

end Link

/-! ## What is to be notified (R156) -/

section Notice

variable {s t : State}

/-- With every kind QUIET there is nothing to notify. -/
theorem noticeOk_of_quiet (h : ∀ k, s.attn.stateOf k = .quiet) : NoticeOk s := by
  intro raised
  obtain ⟨k, _, state⟩ := (toNotify_any _).mp raised
  rw [h k] at state
  cases state

/-- Every kind is QUIET after a reset (R153). -/
theorem attentionReset_stateOf (k : AttnKind) : Attention.reset.stateOf k = .quiet := by
  simp [Attention.stateOf, Attention.reset]

theorem noticeOk_congr (attn : t.attn = s.attn) (outbound : t.link.outbound = s.link.outbound) :
    NoticeOk t ↔ NoticeOk s := by
  unfold NoticeOk noticePlaceFree
  rw [attn, outbound]

/-- A frame more in the outbound queue takes no NOTICE away. -/
theorem NoticeOk.append (ok : NoticeOk s) {f : OutFrame} (attn : t.attn = s.attn)
    (outbound : t.link.outbound = s.link.outbound ++ [f]) : NoticeOk t := by
  unfold NoticeOk noticePlaceFree at ok ⊢
  rw [attn, outbound]
  intro raised
  have := ok raised
  simp only [Bool.not_eq_false', List.any_append, Bool.or_eq_true] at this ⊢
  exact .inl this

/-- Making kinds QUIET leaves no more to notify. -/
theorem quietKinds_noticeOk (set : Vector Bool 7) (ok : NoticeOk s) : NoticeOk (quietKinds set s) := by
  intro raised
  refine ok ?_
  rw [toNotify_any] at raised ⊢
  obtain ⟨k, subscribed, state⟩ := raised
  refine ⟨k, subscribed, ?_⟩
  simp only [Attention.stateOf, quietKinds, setKinds_attn, Fin.getElem_fin, zipVec_getElem] at state ⊢
  split at state
  · cases state
  · exact state

/-- A group of flags, one for each kind, has one set exactly if some kind's is. -/
theorem any_kind (v : Vector Bool 7) : v.any id = true ↔ ∃ k : AttnKind, v[k.idx] = true := by
  rw [Vector.any_eq_true]
  constructor
  · rintro ⟨i, hi, h⟩
    have all : ∀ i : Fin 7, ∃ k : AttnKind, k.idx = i := by
      intro i
      match i with
      | 0 => exact ⟨.path, rfl⟩
      | 1 => exact ⟨.discipline, rfl⟩
      | 2 => exact ⟨.era, rfl⟩
      | 3 => exact ⟨.schedule, rfl⟩
      | 4 => exact ⟨.journalLevel, rfl⟩
      | 5 => exact ⟨.journalOverrun, rfl⟩
      | 6 => exact ⟨.link, rfl⟩
    obtain ⟨k, hk⟩ := all ⟨i, hi⟩
    exact ⟨k, by simpa [hk] using h⟩
  · rintro ⟨k, h⟩
    exact ⟨k.idx.val, k.idx.isLt, h⟩

/-- Some kind is newly to be notified exactly if it was not subscribed, and is subscribed and RAISED now (R160). -/
theorem newlyRaised_any (old : Vector Bool 7) (a : Attention) :
    (newlyRaised old a).any id = true ↔
      ∃ k : AttnKind, old[k.idx] = false ∧ a.isSubscribed k = true ∧ a.stateOf k = .raised := by
  rw [any_kind]
  simp [newlyRaised, Attention.toNotify, Attention.isSubscribed, Attention.stateOf]

/-- A lower threshold raises JOURNAL_LEVEL with its NOTICE, or raises nothing (R148). -/
theorem judgeThreshold_cases (old : Nat) (s : State) :
    judgeThreshold old s = s ∨ judgeThreshold old s = raise .journalLevel s := by
  unfold judgeThreshold
  dsimp only
  split
  · exact .inr rfl
  · exact .inl rfl

/-- With no kind newly to be notified, a new subscription set leaves every NOTICE it needs (R160). -/
theorem subscribe_noticeOk {set : Vector Bool 7} {threshold : Nat} (ok : NoticeOk s)
    (none : (newlyRaised s.attn.subscribed (subscribe set threshold s).attn).any id = false) :
    NoticeOk (subscribe set threshold s) := by
  intro raised
  rw [toNotify_any] at raised
  obtain ⟨k, subscribed, state⟩ := raised
  refine ok ((toNotify_any _).mpr ⟨k, ?_, state⟩)
  by_contra was
  have some := (newlyRaised_any s.attn.subscribed (subscribe set threshold s).attn).mpr
    ⟨k, Bool.not_eq_true _ ▸ was, subscribed, state⟩
  rw [none] at some
  cases some

/-- A raise calls for no new NOTICE of a kind that was RAISED before. -/
theorem newlyRaised_raise {old : Vector Bool 7} {k : AttnKind}
    (h : (newlyRaised old (raise k s).attn).any id = false) : (newlyRaised old s.attn).any id = false := by
  rw [← Bool.not_eq_true, newlyRaised_any] at h ⊢
  rintro ⟨j, was, subscribed, state⟩
  refine h ⟨j, was, ?_, ?_⟩
  · rwa [Attention.isSubscribed, raise_subscribed]
  · rw [raise_stateOf, state, ite_self]

theorem setAttention_noticeOk (c : Vector Bool 7 × Nat) (ok : NoticeOk s) : NoticeOk (setAttention c s).2 := by
  unfold setAttention
  split
  · dsimp only
    split
    · exact judgeNotice_noticeOk _
    · rename_i none
      rw [Bool.not_eq_true] at none
      rcases judgeThreshold_cases s.journal.threshold (subscribe c.1 c.2 s) with e | e <;> rw [e] at none ⊢
      · exact subscribe_noticeOk ok none
      · exact raise_noticeOk _ _ (subscribe_noticeOk ok (newlyRaised_raise none))
  · exact ok

theorem acknowledge_noticeOk (set : Vector Bool 7) (ok : NoticeOk s) : NoticeOk (acknowledge set s).2 := by
  have quiet := quietKinds_noticeOk set ok
  unfold acknowledge
  dsimp only
  split
  · exact raise_noticeOk _ _ quiet
  · exact quiet

theorem journalReset_noticeOk (ok : NoticeOk s) : NoticeOk (journalReset s) :=
  setKind_noticeOk _ _ _ (.inr nofun) (setKind_noticeOk _ _ _ (.inr nofun) ok)

theorem storeRecord_noticeOk (body : RecordBody) (ok : NoticeOk s) : NoticeOk (storeRecord body s) := by
  by_cases level : s.journal.records.length + 1 = s.journal.threshold
  · rw [storeRecord_at_threshold s body level]
    exact raise_noticeOk _ _ ok
  · rw [storeRecord_off_threshold s body level]
    exact ok

theorem release_noticeOk (count : Nat) (ok : NoticeOk s) : NoticeOk (release count s) := by
  unfold release
  dsimp only
  split
  · exact storeRecord_noticeOk _ ok
  · exact ok

theorem ReportRequest.noticeOk (h : ReportRequest s t) (ok : NoticeOk s) : NoticeOk t := by
  cases h with
  | journalReset => exact journalReset_noticeOk ok
  | journalRead drop most => exact release_noticeOk drop ok
  | attentionSet c => exact setAttention_noticeOk c ok
  | attentionAcknowledged set => exact acknowledge_noticeOk set ok

theorem loseFrame_noticeOk (cause : LinkError) (ok : NoticeOk s) : NoticeOk (loseFrame cause s) :=
  raise_noticeOk _ _ ok

theorem replyOnReceipt_noticeOk (frame : List Byte) (ok : NoticeOk s) : NoticeOk (replyOnReceipt frame s) := by
  unfold replyOnReceipt
  split
  · exact ok.append rfl rfl
  · exact loseFrame_noticeOk _ ok

theorem acceptFrame_noticeOk (r : Request) (ok : NoticeOk s) : NoticeOk (acceptFrame r s) := by
  unfold acceptFrame
  split
  · exact ok
  · split
    · exact ok
    · split
      · exact replyOnReceipt_noticeOk _ ok
      · split
        · exact replyOnReceipt_noticeOk _ ok
        · split
          · exact ok
          · exact loseFrame_noticeOk _ ok

theorem receive_noticeOk (b : Byte) (ok : NoticeOk s) : NoticeOk (receive b s) := by
  unfold receive
  split
  · split <;> exact ok
  · split
    · exact ok
    · exact loseFrame_noticeOk _ ok
  · dsimp only
    split
    · exact ok
    · unfold checkFrame
      split
      · exact acceptFrame_noticeOk _ ok
      · exact loseFrame_noticeOk _ ok
  · exact ok

/-- Beginning a reply leaves the own frames waiting; beginning an own frame judges the notice place anew (R156). -/
theorem beginHead_noticeOk (ok : NoticeOk s) : NoticeOk (beginHead s) := by
  unfold beginHead
  split
  · exact ok
  · rename_i head
    intro raised
    have := ok raised
    simpa [noticePlaceFree, beginFrame, head, OutFrame.isOwn] using this
  · exact judgeNotice_noticeOk _
  · exact judgeNotice_noticeOk _

theorem fullReset_noticeOk (cause : StartCause) (inBreak : Bool) (pins : PinSample) (s : State) :
    NoticeOk (fullReset cause inBreak pins s) := fun _ => rfl

theorem LinkEvent.noticeOk (h : LinkEvent s t) (ok : NoticeOk s) : NoticeOk t := by
  cases h with
  | byteReceived b => exact receive_noticeOk b ok
  | frameAbandoned => exact loseFrame_noticeOk _ ok
  | brokenWhilePending pins =>
    unfold breakWhilePending
    split
    · exact ok
    · exact fullReset_noticeOk _ _ _ _
  | linkReset => exact fun _ => rfl
  | breakEnded => exact ok
  | frameBegan => exact beginHead_noticeOk ok
  | frameEnded pins =>
    unfold endFrame
    split
    · exact fullReset_noticeOk _ _ _ _
    · dsimp only
      split
      · exact beginHead_noticeOk (s := idleTransmitter s) ok
      · exact ok
  | frameStopped pins =>
    unfold stopTransmitter
    split
    · exact fullReset_noticeOk _ _ _ _
    · exact ok

theorem CommandEffect.noticeOk (h : CommandEffect s t) (ok : NoticeOk s) : NoticeOk t := by
  cases h with
  | unchanged => exact ok
  | poweredOn pins => exact fullReset_noticeOk _ _ _ _
  | heldInReset => exact noticeOk_of_quiet attentionReset_stateOf
  | released pins => exact fullReset_noticeOk _ _ _ _
  | poweredOff => exact ok
  | answered r rep u head effect =>
    have done : NoticeOk u := effect.innerWork.elim (·.notice ok) (·.noticeOk ok)
    exact done.append rfl rfl
  | woundDown r rep => exact ok.append (s := dequeueRequest s) rfl rfl
  | event _ running effect => exact effect.innerWork.elim (·.notice ok) (·.noticeOk ok)

/-- Settles O55, by cases over the effects of a step. -/
theorem raisedKindsHaveANoticeWaiting : Obligations.RaisedKindsHaveANoticeWaiting := by
  intro s t ok h
  cases step_effect h with
  | command rest _ effect => exact effect.noticeOk ok
  | ticked =>
    obtain ⟨u, inner, _, _, _, attn, link⟩ := tick_reports s
    exact inner.notice ((noticeOk_congr attn (by rw [link])).mpr ok)
  | queued => exact ok

end Notice

end Sys2Proof.Machine

/-! PROOFS. What the discipline controller, the timescale and the monitors change of each other: the frames of their shared
operations, and a step of a path as a chain of a few kinds of update. -/

namespace Sys2Proof.Machine

/-! ## Work of the discipline controller -/

/-- `t` comes from `s` by work of the discipline controller: of the timescale at most what setting it free changes, and of
the monitors, the schedule and the lines nothing. -/
structure DisciplineWork (s t : State) : Prop where
  mon : ∀ p, t.mon p = s.mon p
  sched : t.sched = s.sched
  lines : t.lines = s.lines
  caps : t.caps = s.caps
  time : t.ts =
    { s.ts with
      freqRemainder := t.ts.freqRemainder
      freeRun := t.ts.freeRun
      slewLeft := t.ts.slewLeft
      slewLost := t.ts.slewLost
      hold := t.ts.hold
      switchPending := t.ts.switchPending }

namespace DisciplineWork

theorem refl (s : State) : DisciplineWork s s := ⟨fun _ => rfl, rfl, rfl, rfl, rfl⟩

theorem trans {s t u : State} (h : DisciplineWork s t) (k : DisciplineWork t u) : DisciplineWork s u :=
  ⟨fun p => (k.mon p).trans (h.mon p), k.sched.trans h.sched, k.lines.trans h.lines, k.caps.trans h.caps,
    by rw [k.time, h.time]⟩

/-- The monitor of a path follows from the two monitors. -/
theorem mon_of {s t : State} (a : t.monA = s.monA) (b : t.monB = s.monB) (p : Path) : t.mon p = s.mon p := by
  cases p <;> assumption

end DisciplineWork

open DisciplineWork

section Discipline

variable (s : State)

theorem setDisc_work (d : Discipline) : DisciplineWork s (setDisc d s) := ⟨mon_of rfl rfl, rfl, rfl, rfl, rfl⟩

theorem handOnDiscipline_work (old : DiscState) : DisciplineWork s (handOnDiscipline old s) := by
  unfold handOnDiscipline
  exact ⟨mon_of (by simp) (by simp), by simp, by simp, by simp, by simp⟩

theorem handedOn_work (d : Discipline) (old : DiscState) : DisciplineWork s (handOnDiscipline old (setDisc d s)) :=
  (setDisc_work s d).trans (handOnDiscipline_work _ old)

theorem stopAnchoring_work : DisciplineWork s (stopAnchoring s) := by
  unfold stopAnchoring
  split
  · exact ⟨mon_of rfl rfl, rfl, rfl, rfl, rfl⟩
  · exact .refl s

theorem setSwitchPending_work (b : Bool) : DisciplineWork s (setTs { s.ts with switchPending := b } s) :=
  ⟨mon_of rfl rfl, rfl, rfl, rfl, rfl⟩

theorem gainPath_work (q : Path) : DisciplineWork s (gainPath q s) := handedOn_work s _ _

theorem switchPath_work (q : Path) : DisciplineWork s (switchPath q s) := by
  unfold switchPath
  dsimp only
  split
  · exact ((stopAnchoring_work s).trans (setSwitchPending_work _ true)).trans (handedOn_work _ _ _)
  · exact handedOn_work s _ _

theorem losePath_work (byPath : Bool) : DisciplineWork s (losePath byPath s) := by
  have freed := (stopAnchoring_work s).trans (setSwitchPending_work _ false)
  unfold losePath
  split
  · split <;> exact handedOn_work s _ _
  · dsimp only
    split <;> exact freed.trans (handedOn_work _ _ _)
  · exact handedOn_work s _ _
  · exact handedOn_work s _ _

/-- An evaluation is work of the discipline controller (R53). -/
theorem evaluate_work : DisciplineWork s (evaluate s) := by
  rcases evaluate_cases s with ⟨_, e⟩ | ⟨q, _, _, e⟩ | ⟨p, q, _, _, _, e⟩ | ⟨p, _, _, e⟩ <;> rw [e]
  · exact .refl s
  · exact gainPath_work s q
  · exact switchPath_work s q
  · exact losePath_work s _

theorem expireHoldover_work : DisciplineWork s (expireHoldover s) := by
  unfold expireHoldover
  split
  · exact handedOn_work s _ _
  all_goals exact setDisc_work s _

theorem applyHoldoverLimit_work : DisciplineWork s (applyHoldoverLimit s) := by
  unfold applyHoldoverLimit
  split
  · split
    · exact setDisc_work s _
    · split
      · exact expireHoldover_work s
      · exact .refl s
  · split
    · exact setDisc_work s _
    · exact .refl s

theorem applyConfig_work (limit : Nat) : DisciplineWork s (applyConfig limit s) := by
  have chosen : DisciplineWork s { s with choices := s.choices + 1 } := ⟨mon_of rfl rfl, rfl, rfl, rfl, rfl⟩
  rcases applyConfig_cases s limit with ⟨_, e⟩ | ⟨_, e | e⟩ <;> rw [e]
  · exact (applyHoldoverLimit_work s).trans (evaluate_work _)
  · exact (chosen.trans (applyHoldoverLimit_work _)).trans (evaluate_work _)
  · exact (chosen.trans (evaluate_work _)).trans (applyHoldoverLimit_work _)

theorem handCleanSecond_work (ticks : Nat) : DisciplineWork s (handCleanSecond ticks s) := by
  unfold handCleanSecond
  split
  · exact setDisc_work s _
  · exact .refl s

end Discipline

/-! ## Work of the timescale -/

/-- `t` comes from `s` by work of the timescale, which may move entries of the schedule and discipline states on its way, but
leaves the monitors and the capture lines. -/
structure TimeWork (s t : State) : Prop where
  mon : ∀ p, t.mon p = s.mon p
  caps : t.caps = s.caps
  admissions : t.sched.admissions = s.sched.admissions

namespace TimeWork

theorem refl (s : State) : TimeWork s s := ⟨fun _ => rfl, rfl, rfl⟩

theorem trans {s t u : State} (h : TimeWork s t) (k : TimeWork t u) : TimeWork s u :=
  ⟨fun p => (k.mon p).trans (h.mon p), k.caps.trans h.caps, k.admissions.trans h.admissions⟩

end TimeWork

theorem DisciplineWork.timeWork {s t : State} (h : DisciplineWork s t) : TimeWork s t :=
  ⟨h.mon, h.caps, by rw [h.sched]⟩

/-- Work of the timescale that leaves the discipline controller and the pending measurement of a switch. -/
structure ClockWork (s t : State) : Prop extends TimeWork s t where
  disc : t.disc = s.disc
  pending : t.ts.switchPending = s.ts.switchPending

namespace ClockWork

theorem refl (s : State) : ClockWork s s := ⟨.refl s, rfl, rfl⟩

theorem trans {s t u : State} (h : ClockWork s t) (k : ClockWork t u) : ClockWork s u :=
  ⟨h.toTimeWork.trans k.toTimeWork, k.disc.trans h.disc, k.pending.trans h.pending⟩

end ClockWork

theorem SchedulePart.clockWork {s t : State} (h : SchedulePart s t) : ClockWork s t := ⟨⟨h.mon, h.caps, h.admissions⟩, h.disc, by rw [h.ts]⟩

section Timescale

variable (s : State)

theorem setTs_clockWork (c : Timescale) (pending : c.switchPending = s.ts.switchPending) : ClockWork s (setTs c s) :=
  ⟨⟨mon_of rfl rfl, rfl, rfl⟩, rfl, pending⟩

theorem declareEra_clockWork (cause : EraCause) : ClockWork s (declareEra cause s) := by
  unfold declareEra
  exact ⟨⟨mon_of (by simp) (by simp), by simp, by simp⟩, by simp, by simp⟩

theorem advanceBy_clockWork (ticks : Nat) : ClockWork s (advanceBy ticks s) := by
  unfold advanceBy
  dsimp only
  split
  · exact setTs_clockWork s _ (by rfl)
  · split
    · exact (setTs_clockWork s _ (by rfl)).trans ⟨⟨mon_of rfl rfl, rfl, rfl⟩, rfl, rfl⟩
    · exact setTs_clockWork s _ (by rfl)

theorem tickTimescale_clockWork : ClockWork s (tickTimescale s) := by
  unfold tickTimescale
  split
  · exact setTs_clockWork s _ (by rfl)
  · split
    · exact advanceBy_clockWork s _
    · exact (setTs_clockWork s _ (by rfl)).trans (advanceBy_clockWork _ _)

theorem unappliedParts_clockWork : ClockWork s (unappliedParts s).2 := by
  unfold unappliedParts
  dsimp only
  split
  · exact .refl s
  · exact ⟨⟨mon_of rfl rfl, rfl, rfl⟩, rfl, rfl⟩

theorem abandonFreeSlew_clockWork : ClockWork s (abandonFreeSlew s) := by
  unfold abandonFreeSlew
  split
  · exact .refl s
  · exact (unappliedParts_clockWork s).trans (setTs_clockWork _ _ (by rfl))

theorem finishAmount_clockWork : ClockWork s (finishAmount s) := by
  unfold finishAmount
  split
  · exact setTs_clockWork s _ (by rfl)
  · exact .refl s

theorem takeSlewAmount_clockWork : ClockWork s (takeSlewAmount s) := by
  unfold takeSlewAmount
  dsimp only
  split <;> exact setTs_clockWork s _ (by rfl)

theorem applyLoad_clockWork : ClockWork s (applyLoad s) := by
  unfold applyLoad
  split
  · exact .refl s
  · dsimp only
    split
    · exact ((setTs_clockWork s _ (by rfl)).trans (declareEra_clockWork _ _)).trans (takeJump_schedulePart _ _ _ _).clockWork
    · exact setTs_clockWork s _ (by rfl)

theorem carryBoundary_clockWork : ClockWork s (carryBoundary s) :=
  (((setTs_clockWork s _ (by rfl)).trans (finishAmount_clockWork _)).trans (applyLoad_clockWork _)).trans (takeSlewAmount_clockWork _)

theorem correct_clockWork (distance : Int) : ClockWork s (correct distance s) := by
  have moved (t : State) (h : ClockWork s t) (n : Nat) : ClockWork s (fireReached (advanceBy n t)) :=
    (h.trans (advanceBy_clockWork t n)).trans (fireReached_schedulePart _).clockWork
  unfold correct
  dsimp only
  split
  · split
    · exact (moved _ (setTs_clockWork s _ (by rfl)) _).trans (carryBoundary_clockWork _)
    · exact moved _ (setTs_clockWork s _ (by rfl)) _
  · split <;> exact (setTs_clockWork s _ (by rfl)).trans (setTs_clockWork _ _ (by rfl))

theorem anchorStep_clockWork (p : Path) : ClockWork s (anchorStep p s) :=
  (setTs_clockWork s _ (by rfl)).trans (correct_clockWork _ _)

theorem enterLocked_timeWork : TimeWork s (enterLocked s) := (handedOn_work s _ _).timeWork

/-- Anchoring may begin from any state. -/
theorem beginAnchored_timeWork (phase remaining : Int) : TimeWork s (beginAnchored phase remaining s) :=
  ⟨mon_of rfl rfl, rfl, rfl⟩

theorem acquireJump_timeWork : TimeWork s (acquireJump s) := by
  unfold acquireJump
  dsimp only
  refine TimeWork.trans (TimeWork.trans (TimeWork.trans ?_ (declareEra_clockWork _ _).toTimeWork)
    (enterLocked_timeWork _)) (takeJump_schedulePart _ _ _ _).clockWork.toTimeWork
  have jumped : TimeWork s
      (setTs { (beginAnchored 0 0 s).ts with now := ⟨jumpSecond s, 0⟩, boundaryDue := false } (beginAnchored 0 0 s)) :=
    (beginAnchored_timeWork s 0 0).trans (setTs_clockWork _ _ (by rfl)).toTimeWork
  split
  · exact jumped
  · exact jumped.trans (setTs_clockWork _ _ (by rfl)).toTimeWork

theorem completeAcquisition_timeWork : TimeWork s (completeAcquisition s) := by
  unfold completeAcquisition
  split
  · exact (beginAnchored_timeWork s _ _).trans (enterLocked_timeWork _)
  · exact acquireJump_timeWork s

theorem measureSwitch_timeWork : TimeWork s (measureSwitch s) :=
  (unappliedParts_clockWork s).toTimeWork.trans ⟨mon_of rfl rfl, rfl, rfl⟩

/-- A step handed to the timescale is work of the timescale (R37). -/
theorem handStep_timeWork (p : Path) (marked : Bool) : TimeWork s (handStep p marked s) := by
  unfold handStep
  split
  · split
    · split
      · exact measureSwitch_timeWork s
      · exact .refl s
    · exact (anchorStep_clockWork s p).toTimeWork
  · split
    · exact completeAcquisition_timeWork s
    · exact .refl s
  · exact .refl s
  · exact .refl s

end Timescale

/-! ## What a path does to its monitor -/

section Monitors

variable (s : State)

/-- The monitor with a fault counted, before the rule of its state is applied (R36). -/
def Monitor.withFault (k : FaultKind) (now : TimeValue) (m : Monitor) : Monitor :=
  { m with totals := m.totals.bump k, lastFault := some ⟨k, now⟩, faultSinceMark := true }

/-- The monitor after a charge (R36, R39 to R41). -/
def Monitor.charged (k : FaultKind) (now : TimeValue) (m : Monitor) : Monitor :=
  match m.state with
  | .qualifying => { m.withFault k now with cleanCount := 0 }
  | .good =>
    if m.config.failFaults ≤ 1 then (m.withFault k now).toFailed
    else { m.withFault k now with state := .suspect, suspectCount := 1, cleanCount := 0 }
  | .suspect =>
    if m.config.failFaults ≤ m.suspectCount + 1 then (m.withFault k now).toFailed
    else { m.withFault k now with suspectCount := m.suspectCount + 1, cleanCount := 0 }
  | .disabled => m
  | .absent => m
  | .failed => m

/-- What a charge can make of a monitor, with the rule it falls under (R36, R39 to R41). -/
theorem Monitor.charged_cases (k : FaultKind) (now : TimeValue) (m : Monitor) :
    (m.state.watches = false ∧ m.charged k now = m) ∨
      (m.state = .qualifying ∧ m.charged k now = { m.withFault k now with cleanCount := 0 }) ∨
      (m.state = .good ∧ 1 < m.config.failFaults ∧
        m.charged k now = { m.withFault k now with state := .suspect, suspectCount := 1, cleanCount := 0 }) ∨
      (m.state = .suspect ∧ m.suspectCount + 1 < m.config.failFaults ∧
        m.charged k now = { m.withFault k now with suspectCount := m.suspectCount + 1, cleanCount := 0 }) ∨
      (((m.state = .good ∧ m.config.failFaults ≤ 1) ∨
          (m.state = .suspect ∧ m.config.failFaults ≤ m.suspectCount + 1)) ∧
        m.charged k now = (m.withFault k now).toFailed) := by
  unfold Monitor.charged
  cases state : m.state with
  | qualifying => exact .inr (.inl ⟨rfl, rfl⟩)
  | good =>
    by_cases fails : m.config.failFaults ≤ 1
    · exact .inr (.inr (.inr (.inr ⟨.inl ⟨rfl, fails⟩, if_pos fails⟩)))
    · exact .inr (.inr (.inl ⟨rfl, Nat.lt_of_not_le fails, if_neg fails⟩))
  | suspect =>
    by_cases fails : m.config.failFaults ≤ m.suspectCount + 1
    · exact .inr (.inr (.inr (.inr ⟨.inr ⟨rfl, fails⟩, if_pos fails⟩)))
    · exact .inr (.inr (.inr (.inl ⟨rfl, Nat.lt_of_not_le fails, if_neg fails⟩)))
  | disabled => exact .inl ⟨rfl, rfl⟩
  | absent => exact .inl ⟨rfl, rfl⟩
  | failed => exact .inl ⟨rfl, rfl⟩

theorem mon_cases (p q : Path) : q = p ∨ q = otherPath p := by cases p <;> cases q <;> simp [otherPath]

theorem setMon_mon_ne {p q : Path} (m : Monitor) (h : q ≠ p) : (setMon p m s).mon q = s.mon q := by
  rcases mon_cases p q with rfl | rfl
  · exact absurd rfl h
  · exact setMon_mon_other s p m

@[simp] theorem setMon_self (p : Path) : setMon p (s.mon p) s = s := by cases p <;> rfl

@[simp] theorem setMon_setMon (p : Path) (m n : Monitor) : setMon p m (setMon p n s) = setMon p m s := by
  cases p <;> rfl

theorem handOnPath_work (p : Path) (old : PathState) (fault : Option FaultKind) :
    DisciplineWork s (handOnPath p old fault s) := by
  refine DisciplineWork.trans ?_ (evaluate_work _)
  exact ⟨mon_of (by simp) (by simp), by simp, by simp, by simp, by simp⟩

@[simp] theorem changePath_mon (p : Path) (m : Monitor) (fault : Option FaultKind) :
    (changePath p m fault s).mon p = m := by
  rw [changePath, (handOnPath_work _ _ _ _).mon, setMon_mon]

theorem changePath_mon_ne {p q : Path} (m : Monitor) (fault : Option FaultKind) (h : q ≠ p) :
    (changePath p m fault s).mon q = s.mon q := by
  rw [changePath, (handOnPath_work _ _ _ _).mon, setMon_mon_ne s m h]

/-- A charge changes the monitor of its path by the rule of its state, and hands the change on if the state is another
(R36, R37, R39 to R41). -/
theorem charge_eq (p : Path) (k : FaultKind) :
    charge p k s =
      if ((s.mon p).charged k s.ts.now).state = (s.mon p).state then setMon p ((s.mon p).charged k s.ts.now) s
      else changePath p ((s.mon p).charged k s.ts.now) (some k) s := by
  cases state : (s.mon p).state with
  | qualifying => simp [charge, Monitor.charged, Monitor.withFault, state]
  | good => by_cases fails : (s.mon p).config.failFaults ≤ 1 <;>
      simp [charge, Monitor.charged, Monitor.withFault, Monitor.toFailed, Monitor.cleared, state, fails]
  | suspect => by_cases fails : (s.mon p).config.failFaults ≤ (s.mon p).suspectCount + 1 <;>
      simp [charge, Monitor.charged, Monitor.withFault, Monitor.toFailed, Monitor.cleared, state, fails]
  | disabled => simp [charge, Monitor.charged, state]
  | absent => simp [charge, Monitor.charged, state]
  | failed => simp [charge, Monitor.charged, state]

@[simp] theorem charge_mon (p : Path) (k : FaultKind) : (charge p k s).mon p = (s.mon p).charged k s.ts.now := by
  rw [charge_eq]
  split
  · exact setMon_mon _ _ _
  · exact changePath_mon _ _ _ _

/-! ## A step of a path as a chain of updates -/

/-- `t` comes from `s` by what a path does in one step, ahead of the timescale: updates of its monitor that keep the path
state, changes of the path state, each handed on, and clean seconds handed to the controller. -/
inductive PathWork (p : Path) (s : State) : State → Prop
  | refl : PathWork p s s
  | updated {t : State} (h : PathWork p s t) (m : Monitor) (same : m.state = (t.mon p).state) :
      PathWork p s (setMon p m t)
  | changed {t : State} (h : PathWork p s t) (m : Monitor) (fault : Option FaultKind) :
      PathWork p s (changePath p m fault t)
  | learned {t : State} (h : PathWork p s t) (ticks : Nat) (range : rateOk ticks = true) :
      PathWork p s (handCleanSecond ticks t)

variable {s} {p : Path} {t : State}

theorem PathWork.charge (h : PathWork p s t) (k : FaultKind) : PathWork p s (charge p k t) := by
  rw [charge_eq]
  split
  · exact h.updated _ ‹_›
  · exact h.changed _ _

theorem PathWork.chargeUnless (h : PathWork p s t) (passes : Bool) (k : FaultKind) :
    PathWork p s (chargeUnless p passes k t) := by
  unfold Machine.chargeUnless
  split
  · exact h
  · exact h.charge k

theorem PathWork.countStep (h : PathWork p s t) : PathWork p s (countStep p t) := by
  have counted := h.updated { t.mon p with stepsSinceMark := (t.mon p).stepsSinceMark + 1 } rfl
  unfold Machine.countStep
  dsimp only
  split
  · split
    · exact counted.charge _
    · exact (counted.charge _).updated _ rfl
  · exact counted

theorem PathWork.cleanSecond (h : PathWork p s t) (ticks : Nat) (range : rateOk ticks = true) :
    PathWork p s (cleanSecond p ticks t) := by
  have handed : PathWork p s (if t.disc.selected = some p then handCleanSecond ticks t else t) := by
    split
    · exact h.learned ticks range
    · exact h
  unfold Machine.cleanSecond
  generalize (if t.disc.selected = some p then handCleanSecond ticks t else t) = u at handed
  dsimp only
  split
  · split
    · exact handed.changed _ _
    · exact handed.updated _ rfl
  · split
    · exact handed.changed _ _
    · exact handed.updated _ rfl
  all_goals exact handed

/-- A step handed to the timescale is handed only after the path's own work, and only while the path is selected (R37). -/
theorem handToTimescale_cases (p : Path) (marked was faulted : Bool) (u : State) :
    handToTimescale p marked was faulted u = u ∨
      (u.disc.selected = some p ∧ handToTimescale p marked was faulted u = handStep p marked u) := by
  unfold handToTimescale
  split
  · rename_i handed
    simp only [Bool.and_eq_true, decide_eq_true_eq] at handed
    exact .inr ⟨handed.2, rfl⟩
  · exact .inl rfl

theorem markChecks_work (p : Path) (m : Monitor) {s t : State} (h : PathWork p s t) : PathWork p s (markChecks p m t) :=
  ((h.chargeUnless _ _).chargeUnless _ _).chargeUnless _ _

/-- A clean second lasts as long as the RATE check allows (R33, R35). -/
theorem cleanInterval_rateOk {m after : Monitor} {at_ ticks : Nat} (h : cleanInterval m after at_ = some ticks) :
    rateOk ticks = true := by
  unfold cleanInterval at h
  split at h
  · cases h
  · exact (Option.filter_eq_some_iff.mp h).2

/-- The state of a marked step once its checks have been made, the flag of a fault lowered before them (R33, R34, R36). -/
def checkedStep (p : Path) (s : State) : State :=
  markChecks p (s.mon p) (setMon p { (s.mon p).accept s.elapsed with faultSinceMark := false } s)

/-- The state of a marked step once its new second is open (R30, point 5). -/
def openedStep (p : Path) (s : State) : State :=
  setMon p (((checkedStep p s).mon p).marked s.elapsed) (checkedStep p s)

/-- The state of a marked step once the second it ends has been judged (R35). -/
def endedSecond (p : Path) (s : State) : State :=
  match cleanInterval (s.mon p) ((checkedStep p s).mon p) s.elapsed with
  | some ticks => cleanSecond p ticks (openedStep p s)
  | none => openedStep p s

/-- A marked step is its checks, the new second, the second that has ended, and the timescale (R30 to R37). -/
theorem markedStep_eq (p : Path) (s : State) :
    markedStep p s =
      if hasFailed p (checkedStep p s) then checkedStep p s
      else
        handToTimescale p true (decide (s.disc.selected = some p)) ((checkedStep p s).mon p).faultSinceMark
          (endedSecond p s) := rfl

theorem checkedStep_pathWork (p : Path) (s : State) : PathWork p s (checkedStep p s) :=
  markChecks_work p _ (PathWork.refl.updated _ rfl)

theorem endedSecond_pathWork (p : Path) (s : State) : PathWork p s (endedSecond p s) := by
  have opened : PathWork p s (openedStep p s) := (checkedStep_pathWork p s).updated (Monitor.marked _ _) rfl
  unfold endedSecond
  split
  · exact opened.cleanSecond _ (cleanInterval_rateOk ‹_›)
  · exact opened

/-- A step of a path is the path's own work, and then at most a step handed to the timescale. -/
theorem takeStep_cases (p : Path) (marked : Bool) (s : State) :
    ∃ u, PathWork p s u ∧
      (takeStep p marked s = u ∨ (u.disc.selected = some p ∧ takeStep p marked s = handStep p marked u)) := by
  have judged : ∃ u, PathWork p s u ∧
      (judgeStep p marked s = u ∨ (u.disc.selected = some p ∧ judgeStep p marked s = handStep p marked u)) := by
    unfold judgeStep
    split
    · exact ⟨_, PathWork.refl.charge _, .inl rfl⟩
    · split
      · rename_i isMarked
        rw [markedStep_eq]
        split
        · exact ⟨_, checkedStep_pathWork p s, .inl rfl⟩
        · rw [isMarked]
          exact ⟨_, endedSecond_pathWork p s, handToTimescale_cases p true _ _ _⟩
      · rename_i unmarked
        rw [Bool.not_eq_true] at unmarked
        rw [unmarked]
        exact ⟨_, (PathWork.refl.updated ((s.mon p).accept s.elapsed) rfl).countStep, handToTimescale_cases p false _ _ _⟩
  unfold takeStep
  cases (s.mon p).state with
  | disabled => exact ⟨s, .refl, .inl rfl⟩
  | failed => exact ⟨s, .refl, .inl rfl⟩
  | absent => exact ⟨_, PathWork.refl.changed _ _, .inl rfl⟩
  | qualifying => exact judged
  | good => exact judged
  | suspect => exact judged

theorem expireWindow_pathWork (p : Path) (s : State) : PathWork p s (expireWindow p s) := by
  have charged : PathWork p s (charge p .missingStep s) := PathWork.refl.charge _
  unfold expireWindow
  dsimp only
  split
  · exact charged
  · exact (charged.updated _ (by rfl)).countStep

/-- What a path does leaves the schedule, the lines and the time of the timescale. -/
theorem PathWork.frame (h : PathWork p s t) :
    t.sched = s.sched ∧ t.lines = s.lines ∧ t.caps = s.caps ∧ t.ts.timeState = s.ts.timeState ∧ t.ts.now = s.ts.now := by
  induction h with
  | refl => exact ⟨rfl, rfl, rfl, rfl, rfl⟩
  | updated _ m _ ih => simpa using ih
  | @changed t _ m fault ih =>
    have work := handOnPath_work (setMon p m t) p (t.mon p).state fault
    rw [changePath, work.sched, work.lines, work.caps, work.time]
    simpa using ih
  | @learned t _ ticks _ ih =>
    have work := handCleanSecond_work t ticks
    rw [work.sched, work.lines, work.caps, work.time]
    exact ih

end Monitors

/-! ## Work of the capture unit -/

/-- `t` comes from `s` by work that touches only the capture lines, the schedule and the reports. -/
structure CaptureWork (s t : State) : Prop where
  ts : t.ts = s.ts
  disc : t.disc = s.disc
  monA : t.monA = s.monA
  monB : t.monB = s.monB
  lines : t.lines = s.lines

namespace CaptureWork

theorem refl (s : State) : CaptureWork s s := ⟨rfl, rfl, rfl, rfl, rfl⟩

theorem trans {s t u : State} (h : CaptureWork s t) (k : CaptureWork t u) : CaptureWork s u :=
  ⟨k.ts.trans h.ts, k.disc.trans h.disc, k.monA.trans h.monA, k.monB.trans h.monB, k.lines.trans h.lines⟩

theorem mon {s t : State} (h : CaptureWork s t) (p : Path) : t.mon p = s.mon p := mon_of h.monA h.monB p

end CaptureWork

section Capture

variable (s : State) (i : Fin 4)

theorem setCap_captureWork (c : CapLine) : CaptureWork s (setCap i c s) := ⟨rfl, rfl, rfl, rfl, rfl⟩

theorem setWaiting_captureWork (l : List Entry) : CaptureWork s (setWaiting i l s) := ⟨rfl, rfl, rfl, rfl, rfl⟩

theorem arm_captureWork (a : ArmedEntry) : CaptureWork s (arm a s) := ⟨rfl, rfl, rfl, rfl, rfl⟩

theorem armWaiting_captureWork : CaptureWork s (armWaiting i s) := by
  have all (l : List Entry) (t : State) :
      CaptureWork t (l.foldl (fun t e => arm (armedAt s.ts.now e) t) t) := by
    induction l generalizing t with
    | nil => exact .refl t
    | cons e l ih => exact (arm_captureWork t _).trans (ih _)
  exact (setWaiting_captureWork s i []).trans (all _ _)

/-- The waiting list and the armed list of a line that is armed do not depend on the records made before. -/
theorem armWaiting_sched {t : State} (ts : t.ts = s.ts) (sched : t.sched = s.sched) :
    (armWaiting i t).sched = (armWaiting i s).sched := by
  have all (l : List Entry) (t u : State) (same : t.sched = u.sched) :
      (l.foldl (fun t e => arm (armedAt s.ts.now e) t) t).sched =
        (l.foldl (fun t e => arm (armedAt s.ts.now e) t) u).sched := by
    induction l generalizing t u with
    | nil => exact same
    | cons e l ih => exact ih _ _ (by simp only [arm, setArmed, same])
  unfold armWaiting
  rw [ts, sched]
  exact all _ _ _ (by simp only [setWaiting, sched])

/-- An accepted edge arms the entries that wait on its line (R127, R132). -/
theorem acceptEdge_captureWork (e : Edge) :
    CaptureWork s (acceptEdge i e s) ∧ (acceptEdge i e s).sched = (armWaiting i s).sched := by
  have recorded (t : State) (work : CaptureWork s t) (sched : t.sched = s.sched) :
      CaptureWork s (armWaiting i t) ∧ (armWaiting i t).sched = (armWaiting i s).sched :=
    ⟨work.trans (armWaiting_captureWork t i), armWaiting_sched s i work.ts sched⟩
  have armed : CaptureWork s (armWaiting i
      (if s.caps[i].record then
        appendRecord (.capture i e s.ts.timeState s.disc.state) (setCap i s.caps[i].startDeadTime s)
      else setCap i s.caps[i].startDeadTime s)) ∧ _ := recorded _ (by
        split
        · exact ⟨by simp, by simp, by simp, by simp, by simp⟩
        · exact setCap_captureWork s i _) (by split <;> simp)
  unfold acceptEdge
  dsimp only
  split
  · exact ⟨armed.1.trans (setCap_captureWork _ i _), armed.2⟩
  · exact armed

/-- A sample arms the entries that wait on its line, or leaves the schedule (R122, R127). -/
theorem takeSample_captureWork (level : Level) :
    CaptureWork s (takeSample i level s) ∧
      ((takeSample i level s).sched = s.sched ∨ (takeSample i level s).sched = (armWaiting i s).sched) := by
  unfold takeSample
  split
  · exact ⟨.refl s, .inl rfl⟩
  · dsimp only
    split
    · have accepted := acceptEdge_captureWork (setCap i { s.caps[i] with level := level } s) i (edgeTo level)
      exact ⟨(setCap_captureWork s i _).trans accepted.1, .inr (accepted.2.trans (armWaiting_sched s i rfl rfl))⟩
    · exact ⟨setCap_captureWork s i _, .inl rfl⟩

end Capture

/-! ## Requests that change several blocks -/

section Requests

variable (s : State)

theorem scheduleReset_clockWork : ClockWork s (scheduleReset s) := ⟨⟨mon_of rfl rfl, rfl, rfl⟩, rfl, rfl⟩

theorem timescaleReset_clockWork : ClockWork s (timescaleReset s) :=
  (((abandonFreeSlew_clockWork s).trans (setTs_clockWork _ _ (by rfl))).trans (declareEra_clockWork _ _)).trans
    (scheduleReset_clockWork _)

theorem stepTo_clockWork (forward : Bool) (new : TimeValue) : ClockWork s (stepTo forward new s) :=
  ((setTs_clockWork s _ (by rfl)).trans (declareEra_clockWork _ _)).trans (takeJump_schedulePart _ _ _ _).clockWork

/-- The admission of an entry is an operation of the schedule but for the count of admissions (R71, R81 to R84). -/
theorem admitChecked_schedulePart (d : Descriptor) :
    (admitChecked d s).2 = s ∨ SchedulePart (countAdmission s) (admitChecked d s).2 := by
  have late (a : ArmedEntry) (passed : Nat) (t : State) :
      SchedulePart t (admitLateFire a passed t) ∧ SchedulePart t (admitLateSkip a passed t) :=
    ⟨((fireAction_schedulePart t true a.entry).trans (raise_schedulePart _)).trans (settle_schedulePart _ _ _ _),
      (settle_schedulePart t _ _ _).trans (raise_schedulePart _)⟩
  unfold admitChecked
  dsimp only
  split
  · exact .inr (joinWaiting_schedulePart _ _ _)
  · split
    · exact .inr (arm_schedulePart _ _)
    · split
      · exact .inr (late _ _ _).1
      · split
        · exact .inl rfl
        · exact .inr (late _ _ _).2

end Requests

/-! ## Work of the journal, the attention unit and the link -/

/-- `t` comes from `s` by work that touches only the journal, the attention unit and the link. -/
structure SameBlocks (s t : State) : Prop where
  ts : t.ts = s.ts
  disc : t.disc = s.disc
  monA : t.monA = s.monA
  monB : t.monB = s.monB
  sched : t.sched = s.sched
  lines : t.lines = s.lines
  caps : t.caps = s.caps

namespace SameBlocks

theorem refl (s : State) : SameBlocks s s := ⟨rfl, rfl, rfl, rfl, rfl, rfl, rfl⟩

theorem trans {s t u : State} (h : SameBlocks s t) (k : SameBlocks t u) : SameBlocks s u :=
  ⟨k.ts.trans h.ts, k.disc.trans h.disc, k.monA.trans h.monA, k.monB.trans h.monB, k.sched.trans h.sched,
    k.lines.trans h.lines, k.caps.trans h.caps⟩

theorem mon {s t : State} (h : SameBlocks s t) (p : Path) : t.mon p = s.mon p := mon_of h.monA h.monB p

end SameBlocks

section Reports

variable (s : State)

theorem raise_sameBlocks (k : AttnKind) : SameBlocks s (raise k s) := by constructor <;> simp

theorem storeRecord_sameBlocks (body : RecordBody) : SameBlocks s (storeRecord body s) := by constructor <;> simp

theorem judgeNotice_sameBlocks : SameBlocks s (judgeNotice s) := by
  rcases judgeNotice_cases s with e | ⟨_, _, e⟩ <;> rw [e]
  · exact .refl s
  · exact ⟨rfl, rfl, rfl, rfl, rfl, rfl, rfl⟩

theorem judgeThreshold_sameBlocks (old : Nat) : SameBlocks s (judgeThreshold old s) := by
  rcases judgeThreshold_cases old s with e | e <;> rw [e]
  · exact .refl s
  · exact raise_sameBlocks s _

theorem release_sameBlocks (count : Nat) : SameBlocks s (release count s) := by
  have dropped : SameBlocks s (endOverrun (dropRecords count s)) := ⟨rfl, rfl, rfl, rfl, rfl, rfl, rfl⟩
  unfold release
  dsimp only
  split
  · exact dropped.trans (storeRecord_sameBlocks _ _)
  · exact ⟨rfl, rfl, rfl, rfl, rfl, rfl, rfl⟩

theorem setAttention_sameBlocks (c : Vector Bool 7 × Nat) : SameBlocks s (setAttention c s).2 := by
  have subscribed : SameBlocks s (subscribe c.1 c.2 s) := ⟨rfl, rfl, rfl, rfl, rfl, rfl, rfl⟩
  unfold setAttention
  split
  · dsimp only
    split
    · exact (subscribed.trans (judgeThreshold_sameBlocks _ _)).trans (judgeNotice_sameBlocks _)
    · exact subscribed.trans (judgeThreshold_sameBlocks _ _)
  · exact .refl s

theorem acknowledge_sameBlocks (set : Vector Bool 7) : SameBlocks s (acknowledge set s).2 := by
  have quiet : SameBlocks s (quietKinds set s) := ⟨rfl, rfl, rfl, rfl, rfl, rfl, rfl⟩
  unfold acknowledge
  dsimp only
  split
  · exact quiet.trans (raise_sameBlocks _ _)
  · exact quiet

variable {s} {t : State}

theorem ReportRequest.sameBlocks (h : ReportRequest s t) : SameBlocks s t := by
  cases h with
  | journalReset => exact ⟨rfl, rfl, rfl, rfl, rfl, rfl, rfl⟩
  | journalRead drop most =>
    exact (release_sameBlocks s drop).trans ⟨rfl, rfl, rfl, rfl, rfl, rfl, rfl⟩
  | attentionSet c => exact setAttention_sameBlocks s c
  | attentionAcknowledged set => exact acknowledge_sameBlocks s set

/-- Losing a frame, on whatever state of the receiver. -/
theorem loseFrame_sameBlocks (cause : LinkError) (s : State) : SameBlocks s (loseFrame cause s) :=
  SameBlocks.trans (t := { s with link := { s.link with totals := s.link.totals.bump cause, lastError := some cause } })
    ⟨rfl, rfl, rfl, rfl, rfl, rfl, rfl⟩ (raise_sameBlocks _ _)

theorem toHunt_sameBlocks (s : State) : SameBlocks s (toHunt s) := ⟨rfl, rfl, rfl, rfl, rfl, rfl, rfl⟩

theorem replyOnReceipt_sameBlocks (frame : List Byte) (s : State) : SameBlocks s (replyOnReceipt frame s) := by
  unfold replyOnReceipt
  split
  · exact ⟨rfl, rfl, rfl, rfl, rfl, rfl, rfl⟩
  · exact loseFrame_sameBlocks _ s

theorem acceptFrame_sameBlocks (r : Request) (s : State) : SameBlocks s (acceptFrame r s) := by
  unfold acceptFrame
  split
  · exact .refl s
  · split
    · exact .refl s
    · split
      · exact replyOnReceipt_sameBlocks _ s
      · split
        · exact replyOnReceipt_sameBlocks _ s
        · split
          · exact ⟨rfl, rfl, rfl, rfl, rfl, rfl, rfl⟩
          · exact loseFrame_sameBlocks _ s

theorem receive_sameBlocks (b : Byte) (s : State) : SameBlocks s (receive b s) := by
  unfold receive
  split
  · split
    · exact ⟨rfl, rfl, rfl, rfl, rfl, rfl, rfl⟩
    · exact .refl s
  · split
    · exact ⟨rfl, rfl, rfl, rfl, rfl, rfl, rfl⟩
    · exact (toHunt_sameBlocks s).trans (loseFrame_sameBlocks _ _)
  · dsimp only
    split
    · exact ⟨rfl, rfl, rfl, rfl, rfl, rfl, rfl⟩
    · unfold checkFrame
      split
      · exact (toHunt_sameBlocks s).trans (acceptFrame_sameBlocks _ _)
      · exact (toHunt_sameBlocks s).trans (loseFrame_sameBlocks _ _)
  · exact .refl s

theorem beginFrame_sameBlocks (rest : List OutFrame) (frame : List Byte) (part : Bool) (s : State) :
    SameBlocks s (beginFrame rest frame part s) := ⟨rfl, rfl, rfl, rfl, rfl, rfl, rfl⟩

theorem beginOwn_sameBlocks (rest : List OutFrame) (kind : Byte) (payload : List Byte) (s : State) :
    SameBlocks s (beginOwn rest kind payload s) := ⟨rfl, rfl, rfl, rfl, rfl, rfl, rfl⟩

theorem notifyRaised_sameBlocks (s : State) : SameBlocks s (notifyRaised s) := ⟨rfl, rfl, rfl, rfl, rfl, rfl, rfl⟩

theorem beginHead_sameBlocks (s : State) : SameBlocks s (beginHead s) := by
  unfold beginHead
  split
  · exact .refl s
  · exact beginFrame_sameBlocks _ _ _ s
  · exact ((notifyRaised_sameBlocks s).trans (beginOwn_sameBlocks _ _ _ _)).trans (judgeNotice_sameBlocks _)
  · exact (beginOwn_sameBlocks _ _ _ s).trans (judgeNotice_sameBlocks _)

/-- An event of the link completes a PART reset, or touches only the journal, the attention unit and the link. -/
theorem LinkEvent.sameBlocks (h : LinkEvent s t) :
    (∃ cause inBreak pins, t = fullReset cause inBreak pins s) ∨ SameBlocks s t := by
  cases h with
  | byteReceived b => exact .inr (receive_sameBlocks b s)
  | frameAbandoned => exact .inr ((toHunt_sameBlocks s).trans (loseFrame_sameBlocks _ _))
  | brokenWhilePending pins =>
    unfold breakWhilePending
    split
    · exact .inr ⟨rfl, rfl, rfl, rfl, rfl, rfl, rfl⟩
    · exact .inl ⟨_, _, _, rfl⟩
  | linkReset => exact .inr ⟨rfl, rfl, rfl, rfl, rfl, rfl, rfl⟩
  | breakEnded => exact .inr ⟨rfl, rfl, rfl, rfl, rfl, rfl, rfl⟩
  | frameBegan => exact .inr (beginHead_sameBlocks s)
  | frameEnded pins =>
    unfold endFrame
    split
    · exact .inl ⟨_, _, _, rfl⟩
    · have idle : SameBlocks s (idleTransmitter s) := ⟨rfl, rfl, rfl, rfl, rfl, rfl, rfl⟩
      dsimp only
      split
      · exact .inr (idle.trans (beginHead_sameBlocks _))
      · exact .inr idle
  | frameStopped pins =>
    unfold stopTransmitter
    split
    · exact .inl ⟨_, _, _, rfl⟩
    · exact .inr ⟨rfl, rfl, rfl, rfl, rfl, rfl, rfl⟩

end Reports

/-! ## Keeping an invariant -/

/-- What a predicate must meet to be kept by every step: it does not see the journal, the attention unit and the link, a full
reset establishes it, and the requests, the events and a tick of a part that runs keep it. -/
structure StepInvariant (P : State → Prop) : Prop where
  same : ∀ {s t : State}, SameBlocks s t → P s → P t
  reset : ∀ cause inBreak pins s, P (fullReset cause inBreak pins s)
  request : ∀ {s t : State}, RequestEffect s t → ReportRequest s t ∨ (P s → P t)
  event : ∀ {s t : State}, EventEffect s t → LinkEvent s t ∨ (P s → P t)
  tick : ∀ s : State, s.run = .running → P s → P (tick s)

section Invariant

variable {P : State → Prop} {s t : State}

theorem StepInvariant.keeps_request (inv : StepInvariant P) (h : RequestEffect s t) (ok : P s) : P t :=
  (inv.request h).elim (fun effect => inv.same effect.sameBlocks ok) (· ok)

theorem StepInvariant.keeps_event (inv : StepInvariant P) (h : EventEffect s t) (ok : P s) : P t := by
  rcases inv.event h with effect | kept
  · rcases effect.sameBlocks with ⟨cause, inBreak, pins, rfl⟩ | same
    · exact inv.reset _ _ _ s
    · exact inv.same same ok
  · exact kept ok

theorem StepInvariant.keeps_command (inv : StepInvariant P) (h : CommandEffect s t) (ok : P s) : P t := by
  have taken : P (dequeueRequest s) := inv.same (s := s) ⟨rfl, rfl, rfl, rfl, rfl, rfl, rfl⟩ ok
  cases h with
  | unchanged => exact ok
  | poweredOn pins => exact inv.reset _ _ _ s
  | heldInReset =>
    exact inv.same (s := fullReset .pin false ⟨.low, .low, .low, .low, .low, .low⟩ s)
      ⟨rfl, rfl, rfl, rfl, rfl, rfl, rfl⟩ (inv.reset _ _ _ s)
  | released pins => exact inv.reset _ _ _ s
  | poweredOff => exact inv.same (s := s) ⟨rfl, rfl, rfl, rfl, rfl, rfl, rfl⟩ ok
  | answered r rep u head effect =>
    exact inv.same (s := u) ⟨rfl, rfl, rfl, rfl, rfl, rfl, rfl⟩ (inv.keeps_request effect taken)
  | woundDown r rep => exact inv.same (s := dequeueRequest s) ⟨rfl, rfl, rfl, rfl, rfl, rfl, rfl⟩ taken
  | event _ running effect => exact inv.keeps_event effect ok

/-- A step keeps what its requests, its events and its tick keep. -/
theorem StepInvariant.keeps_step (inv : StepInvariant P) (ok : P s) (h : step s = .next t) : P t := by
  cases step_effect h with
  | command rest _ effect => exact inv.keeps_command effect (inv.same (s := s) ⟨rfl, rfl, rfl, rfl, rfl, rfl, rfl⟩ ok)
  | ticked =>
    by_cases running : s.run = .running
    · exact inv.tick s running ok
    · rw [tick_stopped s running]
      exact inv.same (s := s) ⟨rfl, rfl, rfl, rfl, rfl, rfl, rfl⟩ ok
  | queued => exact inv.same (s := s) ⟨rfl, rfl, rfl, rfl, rfl, rfl, rfl⟩ ok

end Invariant

end Sys2Proof.Machine

/-! PROOFS. The monitors keep their shape: each update of a monitor by itself, and then the steps of the part. -/

namespace Sys2Proof.Machine

/-! ## The shape of one monitor -/

/-- Every fault total within its 255 (R36). -/
def FaultTotals.Within (t : FaultTotals) : Prop :=
  t.earlyStep ≤ 255 ∧ t.missingStep ≤ 255 ∧ t.missingMark ≤ 255 ∧ t.residue ≤ 255 ∧ t.rate ≤ 255 ∧ t.skew ≤ 255

theorem FaultTotals.zero_within : FaultTotals.zero.Within := by unfold FaultTotals.Within; decide

/-- A saturating total stays within its limit (R36). -/
theorem FaultTotals.Within.bump {t : FaultTotals} (h : t.Within) (k : FaultKind) : (t.bump k).Within := by
  obtain ⟨early, step, mark, residue, rate, skew⟩ := h
  have up (n : Nat) (hn : n ≤ 255) := satSucc_le 255 n hn
  cases k with
  | earlyStep => exact ⟨up _ early, step, mark, residue, rate, skew⟩
  | missingStep => exact ⟨early, up _ step, mark, residue, rate, skew⟩
  | missingMark => exact ⟨early, step, up _ mark, residue, rate, skew⟩
  | residue => exact ⟨early, step, mark, up _ residue, rate, skew⟩
  | rate => exact ⟨early, step, mark, residue, up _ rate, skew⟩
  | skew => exact ⟨early, step, mark, residue, rate, up _ skew⟩

/-- What always holds of a monitor but for the count of steps, which stands one too high while MISSING_MARK is judged
(R32). -/
structure MonitorShape (m : Monitor) : Prop where
  window : m.window.isSome = m.state.watches
  reference : m.refInstant.isSome = m.state.watches
  silence : m.silence.isSome = decide (m.state = .qualifying)
  holdOff : m.holdOff.isSome = (decide (m.state = .failed) && m.config.autoRestart)
  idle : m.state.watches = false →
    m.stepsSinceMark = 0 ∧ m.previousMark = none ∧ m.lastAcceptedMark = none ∧ m.firstMarkPending = false
      ∧ m.faultSinceMark = false ∧ m.cleanCount = 0 ∧ m.suspectCount = 0
  counts : m.cleanCount ≤ 15 ∧ m.suspectCount ≤ 15
  config : m.config.inRange = true
  totals : m.totals.Within

section Shape

variable {m : Monitor}

theorem MonitorOk.shape (h : MonitorOk m) : MonitorShape m :=
  ⟨h.window, h.reference, h.silence, h.holdOff, h.idle, h.counts, h.config, h.totals⟩

theorem MonitorShape.ok (h : MonitorShape m) (steps : m.stepsSinceMark ≤ m.config.stepsPerSecond) : MonitorOk m :=
  ⟨h.window, h.reference, h.silence, h.holdOff, h.idle, steps, h.counts, h.config, h.totals⟩

theorem MonitorShape.ok_of_idle (h : MonitorShape m) (idle : m.state.watches = false) : MonitorOk m :=
  h.ok ((h.idle idle).1 ▸ Nat.zero_le _)

/-- A configuration in range asks for counts from 1 to 15 (Table 2.2). -/
theorem PathConfig.counts_of_inRange {c : PathConfig} (h : c.inRange = true) :
    c.qualifyMarks ≤ 15 ∧ c.recoverMarks ≤ 15 ∧ c.failFaults ≤ 15 := by
  simp only [PathConfig.inRange, Bool.and_eq_true, decide_eq_true_eq] at h
  omega

theorem PathConfig.stepsPerSecond_pos (c : PathConfig) : 1 ≤ c.stepsPerSecond := Nat.one_le_pow _ _ (by decide)

/-- A cleared monitor has the shape of DISABLED and of ABSENT (Table 2.4). -/
theorem cleared_ok {st : PathState} (unwatched : st = .disabled ∨ st = .absent) (config : m.config.inRange = true)
    (totals : m.totals.Within) : MonitorOk (m.cleared st) := by
  refine ⟨?_, ?_, ?_, ?_, fun _ => ⟨rfl, rfl, rfl, rfl, rfl, rfl, rfl⟩, Nat.zero_le _, ⟨Nat.zero_le _,
    Nat.zero_le _⟩, config, totals⟩ <;> rcases unwatched with rfl | rfl <;> rfl

theorem forgetFaults_ok (h : MonitorOk m) : MonitorOk m.forgetFaults :=
  ⟨h.window, h.reference, h.silence, h.holdOff, h.idle, h.steps, h.counts, h.config, FaultTotals.zero_within⟩

theorem toFailed_shape (config : m.config.inRange = true)
    (totals : m.totals.Within) : MonitorShape m.toFailed := by
  refine ⟨rfl, rfl, rfl, ?_, fun _ => ⟨rfl, rfl, rfl, rfl, rfl, rfl, rfl⟩,
    ⟨Nat.zero_le _, Nat.zero_le _⟩, config, totals⟩
  simp only [Monitor.toFailed, Monitor.cleared]
  split <;> simp [*]

theorem startQualifying_ok (marked : Bool) (at_ : Nat) (h : MonitorOk m) (absent : m.state = .absent) :
    MonitorOk (m.startQualifying marked at_) := by
  refine ⟨rfl, rfl, rfl, ?_, nofun, ?_, by simp [Monitor.startQualifying], h.config, h.totals⟩
  · simpa [Monitor.startQualifying, absent] using h.holdOff
  · have := m.config.stepsPerSecond_pos
    simp only [Monitor.startQualifying]
    split <;> omega

theorem accept_shape (at_ : Nat) (h : MonitorShape m) (watches : m.state.watches = true) :
    MonitorShape (m.accept at_) := by
  refine ⟨?_, ?_, ?_, h.holdOff, fun idle => ?_, h.counts, h.config, h.totals⟩
  · exact watches.symm
  · exact watches.symm
  · have silence := h.silence
    simp only [Monitor.accept]
    split <;> simp_all
  · rw [show m.state.watches = false from idle] at watches
    cases watches

theorem toGood_ok (h : MonitorOk m) (watches : m.state.watches = true) : MonitorOk m.toGood := by
  refine ⟨h.window.trans watches, h.reference.trans watches, rfl, ?_, nofun, h.steps,
    by simp [Monitor.toGood], h.config, h.totals⟩
  have notFailed : m.state ≠ .failed := fun failed => by rw [failed] at watches; cases watches
  simpa [Monitor.toGood, notFailed] using h.holdOff

theorem marked_ok (at_ : Nat) (h : MonitorShape m) (watches : m.state.watches = true) : MonitorOk (m.marked at_) := by
  refine ⟨h.window, h.reference, h.silence, h.holdOff, fun idle => ?_, Nat.zero_le _, h.counts, h.config, h.totals⟩
  rw [show m.state.watches = false from idle] at watches
  cases watches

/-! ## A charge -/

@[simp] theorem charged_config (k : FaultKind) (now : TimeValue) : (m.charged k now).config = m.config := by
  rcases m.charged_cases k now with ⟨_, e⟩ | ⟨_, e⟩ | ⟨_, _, e⟩ | ⟨_, _, e⟩ | ⟨_, e⟩ <;> rw [e] <;> rfl

/-- A charge leaves the count of steps, or clears it with the failed monitor. -/
theorem charged_steps_le (k : FaultKind) (now : TimeValue) :
    (m.charged k now).stepsSinceMark ≤ m.stepsSinceMark := by
  rcases m.charged_cases k now with ⟨_, e⟩ | ⟨_, e⟩ | ⟨_, _, e⟩ | ⟨_, _, e⟩ | ⟨_, e⟩ <;> rw [e]
  · exact Nat.le_refl _
  · exact Nat.le_refl _
  · exact Nat.le_refl _
  · exact Nat.zero_le _

/-- A charge leaves a watching monitor watching, or failed (R36). -/
theorem charged_watches (k : FaultKind) (now : TimeValue) (watches : m.state.watches = true) :
    (m.charged k now).state.watches = true ∨ (m.charged k now).state = .failed := by
  rcases m.charged_cases k now with ⟨_, e⟩ | ⟨_, e⟩ | ⟨_, _, e⟩ | ⟨_, _, e⟩ | ⟨_, e⟩ <;> rw [e]
  · exact .inl watches
  · exact .inl watches
  · exact .inl rfl
  · exact .inl watches
  · exact .inr rfl

theorem withFault_shape (k : FaultKind) (now : TimeValue) (h : MonitorShape m) (watches : m.state.watches = true) :
    MonitorShape (m.withFault k now) := by
  refine ⟨h.window, h.reference, h.silence, h.holdOff, fun idle => ?_, h.counts, h.config, h.totals.bump k⟩
  rw [show m.state.watches = false from idle] at watches
  cases watches

/-- The counts of a watching monitor may stand anywhere up to 15. -/
theorem MonitorShape.counted (h : MonitorShape m) (watches : m.state.watches = true) {clean suspect : Nat}
    (bounds : clean ≤ 15 ∧ suspect ≤ 15) : MonitorShape { m with cleanCount := clean, suspectCount := suspect } := by
  refine ⟨h.window, h.reference, h.silence, h.holdOff, fun idle => ?_, bounds, h.config, h.totals⟩
  rw [show m.state.watches = false from idle] at watches
  cases watches

/-- GOOD and SUSPECT have the same items (Table 2.6). -/
theorem MonitorShape.suspected (h : MonitorShape m) (good : m.state = .good) :
    MonitorShape { m with state := .suspect } := by
  refine ⟨?_, ?_, ?_, ?_, nofun, h.counts, h.config, h.totals⟩
  · exact h.window.trans (by rw [good]; rfl)
  · exact h.reference.trans (by rw [good]; rfl)
  · simpa [good] using h.silence
  · simpa [good] using h.holdOff

theorem charged_shape (k : FaultKind) (now : TimeValue) (h : MonitorShape m) : MonitorShape (m.charged k now) := by
  obtain ⟨_, _, fails⟩ := PathConfig.counts_of_inRange h.config
  have counts := h.counts
  rcases m.charged_cases k now with ⟨_, e⟩ | ⟨state, e⟩ | ⟨state, _, e⟩ | ⟨state, _, e⟩ | ⟨_, e⟩ <;> rw [e]
  · exact h
  · have watches : m.state.watches = true := by rw [state]; rfl
    exact (withFault_shape k now h watches).counted watches ⟨Nat.zero_le _, counts.2⟩
  · have watches : m.state.watches = true := by rw [state]; rfl
    exact ((withFault_shape k now h watches).suspected state).counted rfl ⟨Nat.zero_le _, by decide⟩
  · have watches : m.state.watches = true := by rw [state]; rfl
    exact (withFault_shape k now h watches).counted watches ⟨Nat.zero_le _, by omega⟩
  · exact toFailed_shape h.config (h.totals.bump k)

/-- A step counted, as MISSING_MARK judges it (R32). -/
theorem MonitorShape.stepped (h : MonitorShape m) (watches : m.state.watches = true) (steps : Nat)
    (previous : Option Nat) : MonitorShape { m with stepsSinceMark := steps, previousMark := previous } := by
  refine ⟨h.window, h.reference, h.silence, h.holdOff, fun idle => ?_, h.counts, h.config, h.totals⟩
  rw [show m.state.watches = false from idle] at watches
  cases watches

/-- The flag of a fault since the mark may stand either way in a watching monitor. -/
theorem MonitorShape.flagged (h : MonitorShape m) (watches : m.state.watches = true) (flag : Bool) :
    MonitorShape { m with faultSinceMark := flag } := by
  refine ⟨h.window, h.reference, h.silence, h.holdOff, fun idle => ?_, h.counts, h.config, h.totals⟩
  rw [show m.state.watches = false from idle] at watches
  cases watches

theorem tick_ok (h : MonitorOk m) : MonitorOk m.tick := by
  have running (timer : Option Nat) : (countDown timer).isSome = timer.isSome := by cases timer <;> rfl
  exact ⟨(running _).trans h.window, h.reference, (running _).trans h.silence, (running _).trans h.holdOff, h.idle,
    h.steps, h.counts, h.config, h.totals⟩

end Shape

/-! ## Both monitors -/

section Both

variable {s t : State} {p : Path}

theorem monitorsOk_iff : MonitorsOk s ↔ ∀ p, MonitorOk (s.mon p) :=
  ⟨fun h p => by cases p <;> [exact h.1; exact h.2], fun h => ⟨h .a, h .b⟩⟩

theorem MonitorsOk.of_mon (ok : MonitorsOk s) (mon : ∀ p, t.mon p = s.mon p) : MonitorsOk t :=
  monitorsOk_iff.mpr fun p => mon p ▸ monitorsOk_iff.mp ok p

/-- With the monitor of one path replaced by one that is in shape, both are. -/
theorem MonitorsOk.of_own (ok : MonitorsOk s) (other : ∀ q, q ≠ p → t.mon q = s.mon q) (own : MonitorOk (t.mon p)) :
    MonitorsOk t := by
  refine monitorsOk_iff.mpr fun q => ?_
  by_cases same : q = p
  · exact same ▸ own
  · exact other q same ▸ monitorsOk_iff.mp ok q

theorem MonitorsOk.changed (ok : MonitorsOk s) {m : Monitor} (fault : Option FaultKind) (own : MonitorOk m) :
    MonitorsOk (changePath p m fault s) :=
  ok.of_own (fun _ other => changePath_mon_ne s m fault other) (by rwa [changePath_mon])

theorem MonitorsOk.updated (ok : MonitorsOk s) {m : Monitor} (own : MonitorOk m) : MonitorsOk (setMon p m s) :=
  ok.of_own (fun _ other => setMon_mon_ne s m other) (by rwa [setMon_mon])

/-- What a path does leaves the monitor of the other path. -/
theorem PathWork.mon_ne (h : PathWork p s t) {q : Path} (other : q ≠ p) : t.mon q = s.mon q := by
  induction h with
  | refl => rfl
  | updated _ m _ ih => rw [setMon_mon_ne _ m other, ih]
  | changed _ m fault ih => rw [changePath_mon_ne _ m fault other, ih]
  | learned _ ticks _ ih => rw [(handCleanSecond_work _ ticks).mon, ih]

/-! ### A step of a path at its own monitor -/

/-- A state whose monitor of the path watches or has failed, and is in shape, with no more steps counted than the count
before. -/
structure Judged (p : Path) (n : Nat) (c : PathConfig) (s : State) : Prop where
  shape : MonitorShape (s.mon p)
  steps : (s.mon p).stepsSinceMark ≤ n
  state : (s.mon p).state.watches = true ∨ (s.mon p).state = .failed
  config : (s.mon p).config = c

variable {n : Nat} {c : PathConfig}

theorem Judged.start {m : Monitor} (shape : MonitorShape m) (watches : m.state.watches = true) :
    Judged p m.stepsSinceMark m.config (setMon p m s) := by
  refine ⟨?_, ?_, ?_, ?_⟩ <;> rw [setMon_mon]
  · exact shape
  · exact .inl watches

theorem Judged.charge (h : Judged p n c s) (k : FaultKind) : Judged p n c (charge p k s) := by
  refine ⟨?_, ?_, ?_, ?_⟩ <;> rw [charge_mon]
  · exact charged_shape k _ h.shape
  · exact Nat.le_trans (charged_steps_le k _) h.steps
  · rcases h.state with watches | failed
    · exact charged_watches k _ watches
    · refine .inr ?_
      have kept : (s.mon p).charged k s.ts.now = s.mon p := by rw [Monitor.charged, failed]
      rwa [kept]
  · rw [charged_config, h.config]

theorem Judged.chargeUnless (h : Judged p n c s) (passes : Bool) (k : FaultKind) :
    Judged p n c (chargeUnless p passes k s) := by
  unfold Machine.chargeUnless
  split
  · exact h
  · exact h.charge k

theorem Judged.watches (h : Judged p n c s) (notFailed : hasFailed p s = false) : (s.mon p).state.watches = true :=
  h.state.resolve_right (of_decide_eq_false notFailed)

/-- A failed monitor is in shape, whatever was counted before. -/
theorem Judged.failed_ok (h : Judged p n c s) (failed : hasFailed p s = true) : MonitorOk (s.mon p) :=
  h.shape.ok_of_idle (by rw [of_decide_eq_true failed]; rfl)

theorem countStep_ok (shape : MonitorOk (s.mon p)) (watches : (s.mon p).state.watches = true) :
    MonitorOk ((countStep p s).mon p) := by
  have counted := shape.shape.stepped watches ((s.mon p).stepsSinceMark + 1) (s.mon p).previousMark
  unfold countStep
  dsimp only
  split
  · have charged : Judged p ((s.mon p).stepsSinceMark + 1) (s.mon p).config
        (charge p .missingMark (setMon p { s.mon p with stepsSinceMark := (s.mon p).stepsSinceMark + 1 } s)) :=
      (Judged.start counted watches).charge _
    split
    · exact charged.failed_ok ‹_›
    · rw [setMon_mon]
      exact (charged.shape.stepped (charged.watches (Bool.not_eq_true _ ▸ ‹_›)) 1 none).ok
        (PathConfig.stepsPerSecond_pos _)
  · rename_i within
    rw [setMon_mon]
    exact counted.ok (Nat.le_of_not_lt within)

theorem cleanSecond_ok (ticks : Nat) (ok : MonitorOk (s.mon p)) : MonitorOk ((cleanSecond p ticks s).mon p) := by
  have handed : (if s.disc.selected = some p then handCleanSecond ticks s else s).mon p = s.mon p := by
    split
    · exact (handCleanSecond_work s ticks).mon p
    · rfl
  obtain ⟨qualify, recover, _⟩ := PathConfig.counts_of_inRange ok.config
  have counts := ok.counts
  unfold cleanSecond
  generalize (if s.disc.selected = some p then handCleanSecond ticks s else s) = u at handed
  dsimp only
  rw [handed]
  have counted (watches : (s.mon p).state.watches = true) (more : (s.mon p).cleanCount + 1 ≤ 15) :
      MonitorOk { s.mon p with cleanCount := (s.mon p).cleanCount + 1 } :=
    (ok.shape.counted watches ⟨more, counts.2⟩).ok ok.steps
  cases state : (s.mon p).state with
  | qualifying =>
    have watches : (s.mon p).state.watches = true := by rw [state]; rfl
    dsimp only
    split
    · rw [changePath_mon]
      exact toGood_ok ok watches
    · rw [setMon_mon, ← state]
      exact counted watches (by omega)
  | suspect =>
    have watches : (s.mon p).state.watches = true := by rw [state]; rfl
    dsimp only
    split
    · rw [changePath_mon]
      exact toGood_ok ok watches
    · rw [setMon_mon, ← state]
      exact counted watches (by omega)
  | good => exact handed ▸ ok
  | disabled => exact handed ▸ ok
  | absent => exact handed ▸ ok
  | failed => exact handed ▸ ok

theorem handToTimescale_mon (p : Path) (marked was faulted : Bool) (s : State) (q : Path) :
    (handToTimescale p marked was faulted s).mon q = s.mon q := by
  rcases handToTimescale_cases p marked was faulted s with e | ⟨_, e⟩ <;> rw [e]
  exact (handStep_timeWork s p marked).mon q

theorem markedStep_ok (ok : MonitorOk (s.mon p)) (watches : (s.mon p).state.watches = true) :
    MonitorOk ((markedStep p s).mon p) := by
  have accepted : Judged p (s.mon p).stepsSinceMark (s.mon p).config
      (setMon p { (s.mon p).accept s.elapsed with faultSinceMark := false } s) :=
    Judged.start ((accept_shape s.elapsed ok.shape watches).flagged watches false) watches
  have checked : Judged p (s.mon p).stepsSinceMark (s.mon p).config (checkedStep p s) :=
    ((accepted.chargeUnless _ _).chargeUnless _ _).chargeUnless _ _
  rw [markedStep_eq]
  split
  · exact checked.failed_ok ‹_›
  · have opened : MonitorOk ((openedStep p s).mon p) := by
      rw [openedStep, setMon_mon]
      exact marked_ok _ checked.shape (checked.watches (Bool.not_eq_true _ ▸ ‹_›))
    rw [handToTimescale_mon, endedSecond]
    split
    · exact cleanSecond_ok _ opened
    · exact opened

theorem unmarkedStep_ok (ok : MonitorOk (s.mon p)) (watches : (s.mon p).state.watches = true) :
    MonitorOk ((unmarkedStep p s).mon p) := by
  unfold unmarkedStep
  dsimp only
  rw [handToTimescale_mon]
  refine countStep_ok ?_ ?_ <;> rw [setMon_mon]
  · exact (accept_shape s.elapsed ok.shape watches).ok ok.steps
  · exact watches

theorem charge_ok (k : FaultKind) (ok : MonitorOk (s.mon p)) : MonitorOk ((charge p k s).mon p) := by
  rw [charge_mon]
  exact (charged_shape k _ ok.shape).ok (by rw [charged_config]; exact Nat.le_trans (charged_steps_le k _) ok.steps)

theorem judgeStep_ok (marked : Bool) (ok : MonitorOk (s.mon p)) (watches : (s.mon p).state.watches = true) :
    MonitorOk ((judgeStep p marked s).mon p) := by
  unfold judgeStep
  split
  · exact charge_ok _ ok
  · split
    · exact markedStep_ok ok watches
    · exact unmarkedStep_ok ok watches

theorem takeStep_ok (marked : Bool) (ok : MonitorOk (s.mon p)) : MonitorOk ((takeStep p marked s).mon p) := by
  unfold takeStep
  cases state : (s.mon p).state with
  | disabled => exact ok
  | failed => exact ok
  | absent =>
    dsimp only
    rw [changePath_mon]
    exact startQualifying_ok marked s.elapsed ok state
  | qualifying => exact judgeStep_ok marked ok (by rw [state]; rfl)
  | good => exact judgeStep_ok marked ok (by rw [state]; rfl)
  | suspect => exact judgeStep_ok marked ok (by rw [state]; rfl)

theorem expireWindow_ok (ok : MonitorOk (s.mon p)) (watches : (s.mon p).state.watches = true) :
    MonitorOk ((expireWindow p s).mon p) := by
  have charged := charge_ok .missingStep ok
  unfold expireWindow
  dsimp only
  split
  · exact charged
  · rename_i standsIn
    have watching : ((charge p .missingStep s).mon p).state.watches = true := by
      rw [charge_mon]
      refine (charged_watches .missingStep s.ts.now watches).resolve_right fun failed => standsIn ?_
      rw [hasFailed, charge_mon, failed]
      rfl
    refine countStep_ok ?_ ?_ <;> rw [setMon_mon]
    · refine ⟨watching.symm, ?_, charged.silence, charged.holdOff, charged.idle, charged.steps, charged.counts,
        charged.config, charged.totals⟩
      rw [Option.isSome_map]
      exact charged.reference
    · exact watching

theorem takeStep_mon_ne (marked : Bool) {q : Path} (other : q ≠ p) : (takeStep p marked s).mon q = s.mon q := by
  obtain ⟨u, work, e | ⟨_, e⟩⟩ := takeStep_cases p marked s <;> rw [e]
  · exact work.mon_ne other
  · rw [(handStep_timeWork u p marked).mon, work.mon_ne other]

/-! ### The effects of a step -/

theorem cleared_monitor_ok (ok : MonitorsOk s) (p : Path) {st : PathState} (unwatched : st = .disabled ∨ st = .absent) :
    MonitorOk ((s.mon p).cleared st) :=
  cleared_ok unwatched (monitorsOk_iff.mp ok p).config (monitorsOk_iff.mp ok p).totals

/-- The configuration of a DISABLED path may be any in range (R26). -/
theorem configured_monitor_ok {m : Monitor} {c : PathConfig} (ok : MonitorOk m) (range : c.inRange = true)
    (disabled : m.state = .disabled) : MonitorOk { m with config := c } := by
  obtain ⟨steps, _⟩ := ok.idle (by rw [disabled]; rfl)
  refine ⟨ok.window, ok.reference, ok.silence, ?_, ok.idle, ?_, ok.counts, range, ok.totals⟩
  · simpa [disabled] using ok.holdOff
  · exact steps ▸ Nat.zero_le _

theorem RequestEffect.monitorsOk (h : RequestEffect s t) : ReportRequest s t ∨ (MonitorsOk s → MonitorsOk t) := by
  cases h with
  | reports effect => exact .inl effect
  | unchanged => exact .inr id
  | scheduleReset => exact .inr id
  | timescaleReset => exact .inr fun ok => ok.of_mon (timescaleReset_clockWork s).mon
  | loadStaged => exact .inr id
  | loadCancelled => exact .inr id
  | slewAdjusted => exact .inr id
  | timeStepped forward n => exact .inr fun ok => ok.of_mon (stepTo_clockWork s forward _).mon
  | pathConfigured p c range disabled =>
    exact .inr fun ok => ok.updated (configured_monitor_ok (monitorsOk_iff.mp ok p) range disabled)
  | pathRefreshed p => exact .inr fun ok => ok.updated (forgetFaults_ok (cleared_monitor_ok ok p (.inr rfl)))
  | pathRestarted p => exact .inr fun ok => ok.changed none (forgetFaults_ok (cleared_monitor_ok ok p (.inr rfl)))
  | pathDisabled p => exact .inr fun ok => ok.changed none (cleared_monitor_ok ok p (.inl rfl))
  | disciplineConfigured c => exact .inr fun ok => ok.of_mon ((setDisc_work s _).trans (applyConfig_work _ _)).mon
  | entryAdmitted raw d =>
    refine .inr fun ok => ?_
    rcases admitChecked_schedulePart s d with e | part
    · exact e.symm ▸ ok
    · exact MonitorsOk.of_mon (s := countAdmission s) ok part.mon
  | entryWithdrawn handle e =>
    exact .inr fun ok => MonitorsOk.of_mon (s := removeEntry handle s) ok (reportRemoved_schedulePart _ _ e).mon
  | lineConfigured => exact .inr id
  | lineDriven => exact .inr id
  | captureConfigured => exact .inr id

theorem EventEffect.monitorsOk (h : EventEffect s t) : LinkEvent s t ∨ (MonitorsOk s → MonitorsOk t) := by
  cases h with
  | link effect => exact .inl effect
  | boundaryCarried => exact .inr fun ok => ok.of_mon (carryBoundary_clockWork s).mon
  | holdEnded => exact .inr id
  | fired a => exact .inr fun ok => ok.of_mon (fireOrdinary_schedulePart s a).mon
  | stepTaken p marked =>
    exact .inr fun ok => ok.of_own (fun _ other => takeStep_mon_ne marked other)
      (takeStep_ok marked (monitorsOk_iff.mp ok p))
  | windowExpired p due =>
    refine .inr fun ok => ok.of_own (fun _ other => (expireWindow_pathWork p s).mon_ne other)
      (expireWindow_ok (monitorsOk_iff.mp ok p) ?_)
    simp only [windowDue, Bool.and_eq_true] at due
    exact due.1
  | pathTimedOut p => exact .inr fun ok => ok.changed none (cleared_monitor_ok ok p (.inr rfl))
  | holdoverExpired => exact .inr fun ok => ok.of_mon (expireHoldover_work s).mon
  | pulseEnded => exact .inr id
  | sampled i level => exact .inr fun ok => MonitorsOk.of_mon (s := markSampled i s) ok (takeSample_captureWork _ i level).1.mon
  | deadTimeEnded => exact .inr id

theorem monitorOk_reset : MonitorOk Monitor.reset :=
  ⟨rfl, rfl, rfl, rfl, fun _ => ⟨rfl, rfl, rfl, rfl, rfl, rfl, rfl⟩, Nat.zero_le _, ⟨Nat.zero_le _, Nat.zero_le _⟩,
    by decide, FaultTotals.zero_within⟩

theorem monitorsOk_invariant : StepInvariant MonitorsOk where
  same same ok := ok.of_mon same.mon
  reset _ _ _ _ := ⟨monitorOk_reset, monitorOk_reset⟩
  request := RequestEffect.monitorsOk
  event := EventEffect.monitorsOk
  tick s running ok := by
    rw [tick_running s running]
    refine MonitorsOk.of_mon ?_ (tickTimescale_clockWork _).mon
    exact ⟨tick_ok ok.1, tick_ok ok.2⟩

/-- Settles O58: the shape of both monitors is an invariant of the steps. -/
theorem monitorsKeepTheirShape : Obligations.MonitorsKeepTheirShape := fun _ _ ok h => monitorsOk_invariant.keeps_step ok h

end Both

end Sys2Proof.Machine

/-! PROOFS. The discipline controller keeps its shape: its state, its selection, its timer and its estimate fit together. -/

namespace Sys2Proof.Machine

/-! ## The shape of the controller -/

/-- What always holds of the controller but for the selected path being eligible and a running timer having a limit, which do
not hold while a new configuration is taken up (R51). -/
structure DisciplineShape (d : Discipline) (pending : Bool) : Prop where
  selected : d.selected.isSome = true ↔ d.state = .acquiring ∨ d.state = .locked
  returns : d.returnState = .holdover → d.state = .acquiring
  timer : d.holdoverTimer.isSome = true →
    d.state = .holdover ∨ (d.state = .acquiring ∧ d.returnState = .holdover)
  estimate : d.freqEstimate.natAbs ≤ 100000
  config : d.config.inRange = true
  switching : pending = true → d.state = .locked

/-- A running holdover timer has a limit (R61). -/
def Discipline.Limited (d : Discipline) : Prop := d.holdoverTimer.isSome = true → d.config.holdoverLimit ≠ 0

/-- The selected path, if any, is eligible (R52). -/
def SelectedEligible (s : State) : Prop := ∀ p, s.disc.selected = some p → eligible s p = true

section Shape

variable {s t : State}

theorem limited_of_idle {d : Discipline} (idle : d.holdoverTimer = none) : d.Limited := by
  unfold Discipline.Limited
  rw [idle]
  exact nofun

theorem disciplineOk_iff :
    DisciplineOk s ↔ DisciplineShape s.disc s.ts.switchPending ∧ s.disc.Limited ∧ SelectedEligible s := by
  constructor
  · intro ok
    exact ⟨⟨ok.selected, ok.returns, fun run => (ok.timer run).2, ok.estimate, ok.config, ok.switching⟩,
      fun run => (ok.timer run).1, ok.eligible⟩
  · rintro ⟨shape, limited, eligible⟩
    exact ⟨shape.selected, eligible, shape.returns, fun run => ⟨limited run, shape.timer run⟩, shape.estimate,
      shape.config, shape.switching⟩

/-- A path is eligible by its state and by the policy (R52). -/
theorem eligible_congr {p : Path} (state : (t.mon p).state = (s.mon p).state)
    (policy : t.disc.config.policy = s.disc.config.policy) : eligible t p = eligible s p := by
  rw [eligible, eligible, state, policy]

theorem DisciplineOk.of_frame (ok : DisciplineOk s) (mon : ∀ p, (t.mon p).state = (s.mon p).state)
    (disc : t.disc = s.disc) (pending : t.ts.switchPending = s.ts.switchPending) : DisciplineOk t := by
  obtain ⟨shape, limited, eligible⟩ := disciplineOk_iff.mp ok
  rw [disciplineOk_iff, disc, pending]
  refine ⟨shape, limited, fun p selected => ?_⟩
  rw [eligible_congr (mon p) (by rw [disc])]
  exact eligible p (disc ▸ selected)

theorem ClockWork.disciplineOk (h : ClockWork s t) (ok : DisciplineOk s) : DisciplineOk t :=
  ok.of_frame (fun p => by rw [h.mon]) h.disc h.pending

@[simp] theorem handOnDiscipline_disc (old : DiscState) : (handOnDiscipline old s).disc = s.disc := by
  simp [handOnDiscipline]

@[simp] theorem handOnDiscipline_ts (old : DiscState) : (handOnDiscipline old s).ts = s.ts := by
  simp [handOnDiscipline]

@[simp] theorem stopAnchoring_disc : (stopAnchoring s).disc = s.disc := by
  unfold stopAnchoring
  split <;> rfl

/-! ## An evaluation -/

/-- With no path selected, the controller is FREE or in HOLDOVER. -/
theorem DisciplineShape.resting {d : Discipline} {pending : Bool} (shape : DisciplineShape d pending)
    (none : d.selected = none) : d.state = .free ∨ d.state = .holdover := by
  have := shape.selected
  rw [none] at this
  cases state : d.state <;> simp_all

theorem gainPath_shape (q : Path) (shape : DisciplineShape s.disc s.ts.switchPending) (none : s.disc.selected = none) :
    DisciplineShape (gainPath q s).disc (gainPath q s).ts.switchPending := by
  have resting := shape.resting none
  simp only [gainPath, handOnDiscipline_disc, handOnDiscipline_ts]
  refine ⟨by simp [setDisc], fun _ => rfl, fun run => .inr ⟨rfl, ?_⟩, shape.estimate, shape.config, fun pending => ?_⟩
  · have timer := shape.timer run
    rcases resting with free | holdover
    · simp [free] at timer
    · exact if_pos holdover
  · have locked := shape.switching pending
    rcases resting with free | holdover
    · rw [free] at locked; cases locked
    · rw [holdover] at locked; cases locked

theorem switchPath_shape (q : Path) (shape : DisciplineShape s.disc s.ts.switchPending)
    (selected : s.disc.selected.isSome = true) :
    DisciplineShape (switchPath q s).disc (switchPath q s).ts.switchPending := by
  have active := shape.selected.mp selected
  have moved (u : State) (disc : u.disc = s.disc) (pending : u.ts.switchPending = true → s.disc.state = .locked) :
      DisciplineShape { u.disc with selected := some q } u.ts.switchPending := by
    rw [disc]
    exact ⟨⟨fun _ => active, fun _ => rfl⟩, shape.returns, shape.timer, shape.estimate, shape.config, pending⟩
  simp only [switchPath, handOnDiscipline_disc, handOnDiscipline_ts]
  split
  · exact moved _ stopAnchoring_disc fun _ => ‹_›
  · exact moved s rfl shape.switching

theorem losePath_shape (byPath : Bool) (shape : DisciplineShape s.disc s.ts.switchPending)
    (selected : s.disc.selected.isSome = true) :
    DisciplineShape (losePath byPath s).disc (losePath byPath s).ts.switchPending := by
  have active := shape.selected.mp selected
  unfold losePath
  cases state : s.disc.state with
  | acquiring =>
    have still : s.ts.switchPending = true → False := fun pending => by
      rw [shape.switching pending] at state; cases state
    cases s.disc.returnState with
    | free =>
      simp only [handOnDiscipline_disc, handOnDiscipline_ts]
      exact ⟨by simp [setDisc], nofun, nofun, shape.estimate, shape.config, fun pending => (still pending).elim⟩
    | holdover =>
      simp only [handOnDiscipline_disc, handOnDiscipline_ts]
      exact ⟨by simp [setDisc], nofun, fun _ => .inl rfl, shape.estimate, shape.config,
        fun pending => (still pending).elim⟩
  | locked =>
    dsimp only
    split <;> simp only [handOnDiscipline_disc, handOnDiscipline_ts, setDisc, setTs, stopAnchoring_disc]
    · exact ⟨by simp, nofun, fun _ => .inl rfl, shape.estimate, shape.config, nofun⟩
    · exact ⟨by simp, nofun, nofun, shape.estimate, shape.config, nofun⟩
  | free => simp [state] at active
  | holdover => simp [state] at active

/-- An evaluation keeps the shape of the controller (R53 to R59). -/
theorem evaluate_shape (shape : DisciplineShape s.disc s.ts.switchPending) :
    DisciplineShape (evaluate s).disc (evaluate s).ts.switchPending := by
  rcases evaluate_cases s with ⟨_, e⟩ | ⟨q, none, _, e⟩ | ⟨p, q, selected, _, _, e⟩ | ⟨p, selected, _, e⟩ <;> rw [e]
  · exact shape
  · exact gainPath_shape q shape none
  · exact switchPath_shape q shape (by rw [selected]; rfl)
  · exact losePath_shape _ shape (by rw [selected]; rfl)

theorem losePath_config (byPath : Bool) : (losePath byPath s).disc.config = s.disc.config := by
  unfold losePath
  split
  · split <;> simp [setDisc]
  · dsimp only
    split <;> simp [setDisc, setTs]
  · simp [setDisc]
  · simp [setDisc]

theorem losePath_selected (byPath : Bool) : (losePath byPath s).disc.selected = none := by
  unfold losePath
  split
  · split <;> simp [setDisc]
  · dsimp only
    split <;> simp [setDisc]
  · simp [setDisc]
  · simp [setDisc]

theorem switchPath_disc (q : Path) : (switchPath q s).disc = { s.disc with selected := some q } := by
  simp only [switchPath, handOnDiscipline_disc]
  split <;> simp [setDisc, setTs]

/-- An evaluation ends with the chosen path selected (R53), under the same configuration. -/
theorem evaluate_selected :
    (evaluate s).disc.selected = chosenPath s ∧ (evaluate s).disc.config = s.disc.config := by
  rcases evaluate_cases s with ⟨same, e⟩ | ⟨q, _, chosen, e⟩ | ⟨p, q, _, chosen, _, e⟩ | ⟨p, _, chosen, e⟩ <;> rw [e]
  · exact ⟨same, rfl⟩
  · simp [gainPath, setDisc, chosen]
  · simp [switchPath_disc, chosen]
  · exact ⟨(losePath_selected _).trans chosen.symm, losePath_config _⟩

theorem losePath_limited (byPath : Bool) (limited : s.disc.Limited) : (losePath byPath s).disc.Limited := by
  unfold losePath
  split
  · split <;> simp only [handOnDiscipline_disc]
    · exact nofun
    · exact limited
  · dsimp only
    split <;> simp only [handOnDiscipline_disc, setDisc, setTs, stopAnchoring_disc]
    · intro run
      dsimp only at run ⊢
      split at run
      · cases run
      · assumption
    · exact nofun
  · rw [handOnDiscipline_disc]
    exact limited
  · rw [handOnDiscipline_disc]
    exact limited

theorem evaluate_limited (limited : s.disc.Limited) : (evaluate s).disc.Limited := by
  rcases evaluate_cases s with ⟨_, e⟩ | ⟨q, _, _, e⟩ | ⟨p, q, _, _, _, e⟩ | ⟨p, _, _, e⟩ <;> rw [e]
  · exact limited
  · simp only [gainPath, handOnDiscipline_disc]
    exact limited
  · rw [switchPath_disc]
    exact limited
  · exact losePath_limited _ limited

/-- After an evaluation the selected path is eligible, whatever it was before (R53). -/
theorem evaluate_eligible : SelectedEligible (evaluate s) := by
  obtain ⟨selected, config⟩ := @evaluate_selected s
  intro p chosen
  rw [eligible_congr (s := s) (by rw [(evaluate_work s).mon]) (by rw [config])]
  exact chosenPath_eligible s p (selected ▸ chosen)

theorem evaluate_disciplineOk (shape : DisciplineShape s.disc s.ts.switchPending) (limited : s.disc.Limited) :
    DisciplineOk (evaluate s) :=
  disciplineOk_iff.mpr ⟨evaluate_shape shape, evaluate_limited limited, evaluate_eligible⟩

/-! ## The holdover timer and the configuration -/

theorem expireHoldover_shape (shape : DisciplineShape s.disc s.ts.switchPending) :
    DisciplineShape (expireHoldover s).disc (expireHoldover s).ts.switchPending ∧
      (expireHoldover s).disc.holdoverTimer = none ∧ (expireHoldover s).disc.selected = s.disc.selected ∧
      (expireHoldover s).disc.config = s.disc.config := by
  unfold expireHoldover
  cases state : s.disc.state with
  | holdover =>
    have none : s.disc.selected.isSome = true → False := fun some => by simpa [state] using shape.selected.mp some
    simp only [handOnDiscipline_disc, handOnDiscipline_ts]
    refine ⟨⟨⟨fun some => (none some).elim, nofun⟩, nofun, nofun, shape.estimate, shape.config, fun pending => ?_⟩,
      rfl, rfl, rfl⟩
    have locked := shape.switching pending
    rw [state] at locked
    cases locked
  | acquiring =>
    refine ⟨⟨shape.selected, nofun, nofun, shape.estimate, shape.config, shape.switching⟩, rfl, rfl, rfl⟩
  | free => exact ⟨⟨shape.selected, shape.returns, nofun, shape.estimate, shape.config, shape.switching⟩, rfl, rfl, rfl⟩
  | locked => exact ⟨⟨shape.selected, shape.returns, nofun, shape.estimate, shape.config, shape.switching⟩, rfl, rfl, rfl⟩

/-- Taking up a limit leaves a running timer only where the limit allows one (R51). -/
theorem applyHoldoverLimit_shape (shape : DisciplineShape s.disc s.ts.switchPending) :
    DisciplineShape (applyHoldoverLimit s).disc (applyHoldoverLimit s).ts.switchPending ∧
      (applyHoldoverLimit s).disc.Limited ∧ (applyHoldoverLimit s).disc.selected = s.disc.selected ∧
      (applyHoldoverLimit s).disc.config = s.disc.config := by
  unfold applyHoldoverLimit
  cases timer : s.disc.holdoverTimer with
  | some count =>
    dsimp only
    split
    · exact ⟨⟨shape.selected, shape.returns, nofun, shape.estimate, shape.config, shape.switching⟩, nofun, rfl, rfl⟩
    · split
      · obtain ⟨kept, idle, selected, config⟩ := expireHoldover_shape shape
        exact ⟨kept, limited_of_idle idle, selected, config⟩
      · exact ⟨shape, fun _ => ‹_›, rfl, rfl⟩
  | none =>
    dsimp only
    split
    · rename_i start
      exact ⟨⟨shape.selected, shape.returns, fun _ => start.2, shape.estimate, shape.config, shape.switching⟩,
        fun _ => start.1, rfl, rfl⟩
    · exact ⟨shape, limited_of_idle timer, rfl, rfl⟩

theorem applyHoldoverLimit_eligible (shape : DisciplineShape s.disc s.ts.switchPending) (ok : SelectedEligible s) :
    SelectedEligible (applyHoldoverLimit s) := by
  obtain ⟨_, _, selected, config⟩ := applyHoldoverLimit_shape shape
  intro p chosen
  rw [eligible_congr (s := s) (by rw [(applyHoldoverLimit_work s).mon]) (by rw [config])]
  exact ok p (selected ▸ chosen)

/-- A new configuration is taken up whole, in either order of its two parts (R51). -/
theorem applyConfig_disciplineOk (limit : Nat) (shape : DisciplineShape s.disc s.ts.switchPending) :
    DisciplineOk (applyConfig limit s) := by
  have limitFirst (u : State) (shape : DisciplineShape u.disc u.ts.switchPending) :
      DisciplineOk (evaluate (applyHoldoverLimit u)) := by
    obtain ⟨kept, limited, _, _⟩ := applyHoldoverLimit_shape shape
    exact evaluate_disciplineOk kept limited
  rcases applyConfig_cases s limit with ⟨_, e⟩ | ⟨_, e | e⟩ <;> rw [e]
  · exact limitFirst s shape
  · exact limitFirst _ shape
  · have evaluated := @evaluate_shape { s with choices := s.choices + 1 } shape
    obtain ⟨kept, limited, _, _⟩ := applyHoldoverLimit_shape evaluated
    exact disciplineOk_iff.mpr ⟨kept, limited, applyHoldoverLimit_eligible evaluated evaluate_eligible⟩

theorem expireHoldover_disciplineOk (ok : DisciplineOk s) : DisciplineOk (expireHoldover s) := by
  obtain ⟨shape, _, eligible⟩ := disciplineOk_iff.mp ok
  obtain ⟨kept, idle, selected, config⟩ := expireHoldover_shape shape
  refine disciplineOk_iff.mpr ⟨kept, limited_of_idle idle, fun p chosen => ?_⟩
  rw [eligible_congr (s := s) (by rw [(expireHoldover_work s).mon]) (by rw [config])]
  exact eligible p (selected ▸ chosen)

/-! ## A step of a path -/

theorem DisciplineOk.updated (ok : DisciplineOk s) {p : Path} {m : Monitor} (same : m.state = (s.mon p).state) :
    DisciplineOk (setMon p m s) := by
  refine ok.of_frame (fun q => ?_) (by simp) (by simp)
  by_cases own : q = p
  · rw [own, setMon_mon, same]
  · rw [setMon_mon_ne s m own]

/-- A change of path state is handed on with an evaluation, which leaves an eligible path selected (R37). -/
theorem DisciplineOk.changed (ok : DisciplineOk s) {p : Path} {m : Monitor} {fault : Option FaultKind} :
    DisciplineOk (changePath p m fault s) := by
  obtain ⟨shape, limited, _⟩ := disciplineOk_iff.mp ok
  unfold changePath handOnPath
  exact evaluate_disciplineOk (by simpa using shape) (by simpa using limited)

theorem DisciplineOk.learned (ok : DisciplineOk s) {ticks : Nat} (range : rateOk ticks = true) :
    DisciplineOk (handCleanSecond ticks s) := by
  unfold handCleanSecond
  split
  · refine ⟨ok.selected, ok.eligible, ok.returns, ok.timer, moveEstimate_bound _ _ ok.estimate ?_, ok.config,
      ok.switching⟩
    simp only [rateOk, decide_eq_true_eq, Config.rateLimit] at range
    unfold freqMeasurement
    omega
  · exact ok

theorem PathWork.disciplineOk {p : Path} (h : PathWork p s t) (ok : DisciplineOk s) : DisciplineOk t := by
  induction h with
  | refl => exact ok
  | updated _ m same ih => exact ih.updated same
  | changed _ m fault ih => exact ih.changed
  | learned _ ticks range ih => exact ih.learned range

/-- The controller enters LOCKED with the path it has selected, and with no switch to measure (R57). -/
theorem enterLocked_disciplineOk (ok : DisciplineOk s) (acquiring : s.disc.state = .acquiring) :
    DisciplineOk (enterLocked s) := by
  have selected := ok.selected.mpr (.inl acquiring)
  have mon := (enterLocked_timeWork s).mon
  have disc : (enterLocked s).disc = { s.disc with state := .locked, holdoverTimer := none, returnState := .free } := by
    simp [enterLocked, setDisc]
  rw [disciplineOk_iff, disc]
  refine ⟨⟨⟨fun _ => .inr rfl, fun _ => selected⟩, nofun, nofun, ok.estimate, ok.config, fun _ => rfl⟩, nofun,
    fun p chosen => ?_⟩
  rw [eligible_congr (s := s) (by rw [mon]) (by rw [disc])]
  rw [disc] at chosen
  exact ok.eligible p chosen

theorem DisciplineOk.settled (ok : DisciplineOk s) (c : Timescale) (pending : c.switchPending = false) :
    DisciplineOk (setTs c s) :=
  ⟨ok.selected, ok.eligible, ok.returns, ok.timer, ok.estimate, ok.config,
    fun switching => by rw [show c.switchPending = true from switching] at pending; cases pending⟩

theorem beginAnchored_disciplineOk (phase remaining : Int) (ok : DisciplineOk s) :
    DisciplineOk (beginAnchored phase remaining s) ∧ (beginAnchored phase remaining s).ts.switchPending = false ∧
      (beginAnchored phase remaining s).disc = s.disc :=
  ⟨ok.settled _ (by rfl), rfl, rfl⟩

theorem completeAcquisition_disciplineOk (ok : DisciplineOk s) (acquiring : s.disc.state = .acquiring) :
    DisciplineOk (completeAcquisition s) := by
  unfold completeAcquisition
  split
  · obtain ⟨anchored, _, disc⟩ := beginAnchored_disciplineOk (measuredOffset s) (-(measuredOffset s)) ok
    exact enterLocked_disciplineOk anchored (by rw [disc, acquiring])
  · unfold acquireJump
    dsimp only
    obtain ⟨anchored, settled, disc⟩ := beginAnchored_disciplineOk 0 0 ok
    have jumped := setTs_clockWork (beginAnchored 0 0 s)
      { (beginAnchored 0 0 s).ts with now := ⟨jumpSecond s, 0⟩, boundaryDue := false } (by rfl)
    have loaded (u : State) (work : ClockWork (beginAnchored 0 0 s) u) (cause : EraCause) (new : TimeValue) :
        DisciplineOk (takeJump (acquireForward s) s.ts.now new (enterLocked (declareEra cause u))) := by
      have declared := work.trans (declareEra_clockWork u cause)
      refine (takeJump_schedulePart _ _ _ _).clockWork.disciplineOk
        (enterLocked_disciplineOk (declared.disciplineOk anchored) ?_)
      rw [declared.disc, disc, acquiring]
    split
    · exact loaded _ jumped _ _
    · exact loaded _ (jumped.trans (setTs_clockWork _ _ (by rfl))) _ _

theorem measureSwitch_disciplineOk (ok : DisciplineOk s) : DisciplineOk (measureSwitch s) :=
  ((unappliedParts_clockWork s).disciplineOk ok).settled _ (by rfl)

theorem handStep_disciplineOk (p : Path) (marked : Bool) (ok : DisciplineOk s) : DisciplineOk (handStep p marked s) := by
  unfold handStep
  cases state : s.disc.state with
  | locked =>
    dsimp only
    split
    · split
      · exact measureSwitch_disciplineOk ok
      · exact ok
    · exact (anchorStep_clockWork s p).disciplineOk ok
  | acquiring =>
    dsimp only
    split
    · exact completeAcquisition_disciplineOk ok state
    · exact ok
  | free => exact ok
  | holdover => exact ok

theorem takeStep_disciplineOk (p : Path) (marked : Bool) (ok : DisciplineOk s) : DisciplineOk (takeStep p marked s) := by
  obtain ⟨u, work, e | ⟨_, e⟩⟩ := takeStep_cases p marked s <;> rw [e]
  · exact work.disciplineOk ok
  · exact handStep_disciplineOk p marked (work.disciplineOk ok)

/-! ## The effects of a step -/

theorem RequestEffect.disciplineOk (h : RequestEffect s t) : ReportRequest s t ∨ (DisciplineOk s → DisciplineOk t) := by
  cases h with
  | reports effect => exact .inl effect
  | unchanged => exact .inr id
  | scheduleReset => exact .inr (scheduleReset_clockWork s).disciplineOk
  | timescaleReset => exact .inr (timescaleReset_clockWork s).disciplineOk
  | loadStaged => exact .inr (setTs_clockWork s _ (by rfl)).disciplineOk
  | loadCancelled => exact .inr (setTs_clockWork s _ (by rfl)).disciplineOk
  | slewAdjusted => exact .inr (setTs_clockWork s _ (by rfl)).disciplineOk
  | timeStepped forward n => exact .inr (stepTo_clockWork s forward _).disciplineOk
  | pathConfigured p c => exact .inr fun ok => ok.updated rfl
  | pathRefreshed p absent => exact .inr fun ok => ok.updated absent.symm
  | pathRestarted p => exact .inr fun ok => ok.changed
  | pathDisabled p => exact .inr fun ok => ok.changed
  | disciplineConfigured c range =>
    refine .inr fun ok => applyConfig_disciplineOk _ ?_
    obtain ⟨shape, _, _⟩ := disciplineOk_iff.mp ok
    exact ⟨shape.selected, shape.returns, shape.timer, shape.estimate, range, shape.switching⟩
  | entryAdmitted raw d =>
    refine .inr fun ok => ?_
    rcases admitChecked_schedulePart s d with e | part
    · exact e.symm ▸ ok
    · exact part.clockWork.disciplineOk (ok.of_frame (t := countAdmission s) (fun _ => rfl) rfl rfl)
  | entryWithdrawn handle e =>
    refine .inr fun ok => (reportRemoved_schedulePart _ _ e).clockWork.disciplineOk ?_
    exact ok.of_frame (t := removeEntry handle s) (fun _ => rfl) rfl rfl
  | lineConfigured => exact .inr fun ok => ok.of_frame (fun _ => rfl) rfl rfl
  | lineDriven => exact .inr fun ok => ok.of_frame (fun _ => rfl) rfl rfl
  | captureConfigured => exact .inr fun ok => ok.of_frame (fun _ => rfl) rfl rfl

theorem EventEffect.disciplineOk (h : EventEffect s t) : LinkEvent s t ∨ (DisciplineOk s → DisciplineOk t) := by
  cases h with
  | link effect => exact .inl effect
  | boundaryCarried => exact .inr (carryBoundary_clockWork s).disciplineOk
  | holdEnded => exact .inr fun ok => ok.of_frame (fun _ => rfl) rfl rfl
  | fired a => exact .inr (fireOrdinary_schedulePart s a).clockWork.disciplineOk
  | stepTaken p marked => exact .inr (takeStep_disciplineOk p marked)
  | windowExpired p => exact .inr (expireWindow_pathWork p s).disciplineOk
  | pathTimedOut p => exact .inr fun ok => ok.changed
  | holdoverExpired => exact .inr expireHoldover_disciplineOk
  | pulseEnded => exact .inr fun ok => ok.of_frame (fun _ => rfl) rfl rfl
  | sampled i level =>
    have work := (takeSample_captureWork (markSampled i s) i level).1
    exact .inr fun ok => ok.of_frame (fun p => by rw [work.mon]; rfl) work.disc (by rw [work.ts]; rfl)
  | deadTimeEnded => exact .inr fun ok => ok.of_frame (fun _ => rfl) rfl rfl

/-- A tick counts the holdover timer up and leaves the rest of the controller (R61). -/
theorem tickTimers_disciplineOk (ok : DisciplineOk s) :
    DisciplineOk (tickTimers (endInstant { s with elapsed := s.elapsed + 1 })) := by
  have eligible : ∀ p, s.disc.selected = some p →
      eligible (tickTimers (endInstant { s with elapsed := s.elapsed + 1 })) p = true := by
    intro p selected
    exact Eq.trans (eligible_congr (s := s) (by cases p <;> rfl) (by rfl)) (ok.eligible p selected)
  refine ⟨ok.selected, eligible, ok.returns, fun run => ok.timer ?_, ok.estimate, ok.config, ok.switching⟩
  rwa [show (tickTimers (endInstant { s with elapsed := s.elapsed + 1 })).disc.holdoverTimer =
    s.disc.holdoverTimer.map fun count => count + 1 from rfl, Option.isSome_map] at run

theorem tick_disciplineOk (running : s.run = .running) (ok : DisciplineOk s) : DisciplineOk (tick s) := by
  rw [tick_running s running]
  exact (tickTimescale_clockWork _).disciplineOk (tickTimers_disciplineOk ok)

theorem disciplineOk_fullReset (cause : StartCause) (inBreak : Bool) (pins : PinSample) :
    DisciplineOk (fullReset cause inBreak pins s) :=
  ⟨⟨nofun, fun active => by rcases active with active | active <;> cases active⟩, nofun, nofun, nofun, Nat.zero_le _, rfl,
    nofun⟩

theorem disciplineOk_invariant : StepInvariant DisciplineOk where
  same same ok := ok.of_frame (fun p => by rw [same.mon]) same.disc (by rw [same.ts])
  reset _ _ _ _ := disciplineOk_fullReset _ _ _
  request := RequestEffect.disciplineOk
  event := EventEffect.disciplineOk
  tick _ := tick_disciplineOk

/-- Settles O57: what fits together in the discipline controller is an invariant of the steps. -/
theorem selectedPathStaysTrusted : Obligations.SelectedPathStaysTrusted :=
  fun _ _ ok h => disciplineOk_invariant.keeps_step ok h

end Shape

end Sys2Proof.Machine

/-! PROOFS. The timescale stays in its range, and is held only where it is anchored at tick 0. -/

namespace Sys2Proof.Machine

/-! ## The range of the timescale -/

/-- The ranges of the items of the timescale (Tables 0.2 and 1.2). -/
structure ClockShape (c : Timescale) : Prop where
  now : c.now.Valid
  load : ∀ v, c.stagedLoad = some v → v < 137438953472
  remaining : c.remainingSlew.natAbs ≤ 62500000
  amount : c.slewAmount.natAbs ≤ 6250
  phase : -62499999 ≤ c.phaseOffset ∧ c.phaseOffset ≤ 62500000
  remainder : c.freqRemainder.natAbs < 1000000000

/-- The time is held only at tick 0 of an anchored timescale (R17). -/
def HoldOk (s : State) : Prop := s.ts.hold.isSome = true → anchored s = true ∧ s.ts.now.tick = 0

/-- The timescale in its range, held only where it may be, under a controller in shape. -/
structure TimeOk (s : State) : Prop where
  clock : ClockShape s.ts
  hold : HoldOk s
  discipline : DisciplineOk s

section Clock

variable {s t : State}

/-- A configuration in range asks for a slew rate from 1 to 6,250 (Table 3.2). -/
theorem rate_of_inRange {c : DiscConfig} (h : c.inRange = true) : 1 ≤ c.slewRate ∧ c.slewRate ≤ 6250 := by
  simp only [DiscConfig.inRange, Bool.and_eq_true, decide_eq_true_eq] at h
  exact h.2

theorem timeOk_iff : TimeOk s ↔ ClockOk s ∧ DisciplineOk s :=
  ⟨fun ok => ⟨⟨ok.clock.now, ok.clock.load, ok.clock.remaining, ok.clock.amount, ok.clock.phase, ok.clock.remainder,
      rate_of_inRange ok.discipline.config, ok.hold⟩, ok.discipline⟩,
    fun ⟨clock, discipline⟩ => ⟨⟨clock.now, clock.load, clock.remaining, clock.amount, clock.phase, clock.remainder⟩,
      clock.hold, discipline⟩⟩

theorem anchored_iff : anchored s = true ↔ s.disc.state = .locked ∧ s.ts.switchPending = false := by
  simp [anchored]

theorem anchored_congr (state : t.disc.state = s.disc.state) (pending : t.ts.switchPending = s.ts.switchPending) :
    anchored t = anchored s := by
  rw [anchored, anchored, state, pending]

/-- A timescale that is not anchored is not held. -/
theorem HoldOk.free (ok : HoldOk s) (free : anchored s = false) : s.ts.hold = none := by
  cases held : s.ts.hold with
  | none => rfl
  | some left =>
    have := (ok (by rw [held]; rfl)).1
    rw [free] at this
    cases this

theorem holdOk_of_none (none : s.ts.hold = none) : HoldOk s := fun held => by rw [none] at held; cases held

/-- A hold stays in place while the time and the anchoring do. -/
theorem HoldOk.of_same (ok : HoldOk s) (hold : t.ts.hold = s.ts.hold) (tick : t.ts.now.tick = s.ts.now.tick)
    (state : t.disc.state = s.disc.state) (pending : t.ts.switchPending = s.ts.switchPending) : HoldOk t := by
  rw [HoldOk, hold, tick, anchored_congr state pending]
  exact ok

theorem TimeOk.of_same (ok : TimeOk s) (ts : t.ts = s.ts) (disc : t.disc = s.disc) (mon : ∀ p, t.mon p = s.mon p) :
    TimeOk t :=
  ⟨ts ▸ ok.clock, ok.hold.of_same (by rw [ts]) (by rw [ts]) (by rw [disc]) (by rw [ts]),
    ok.discipline.of_frame (fun p => by rw [mon]) disc (by rw [ts])⟩

theorem SchedulePart.timeOk (h : SchedulePart s t) (ok : TimeOk s) : TimeOk t := ok.of_same h.ts h.disc h.mon

/-- An update of the timescale that leaves the hold, the tick count and the pending measurement. -/
theorem TimeOk.reset (ok : TimeOk s) {c : Timescale} (clock : ClockShape c) (hold : c.hold = s.ts.hold)
    (tick : c.now.tick = s.ts.now.tick) (pending : c.switchPending = s.ts.switchPending) : TimeOk (setTs c s) :=
  ⟨clock, ok.hold.of_same hold tick rfl pending, (setTs_clockWork s c pending).disciplineOk ok.discipline⟩

/-- An update of the timescale that ends with no hold. -/
theorem TimeOk.unheld (ok : TimeOk s) {c : Timescale} (clock : ClockShape c) (hold : c.hold = none)
    (pending : c.switchPending = s.ts.switchPending) : TimeOk (setTs c s) :=
  ⟨clock, holdOk_of_none hold, (setTs_clockWork s c pending).disciplineOk ok.discipline⟩

theorem declareEra_ts (cause : EraCause) : (declareEra cause s).ts = { s.ts with era := s.ts.era + 1 } := by
  simp [declareEra]

theorem declareEra_timeOk (cause : EraCause) (ok : TimeOk s) : TimeOk (declareEra cause s) := by
  have work := declareEra_clockWork s cause
  refine ⟨?_, ?_, work.disciplineOk ok.discipline⟩
  · rw [declareEra_ts]
    exact ⟨ok.clock.now, ok.clock.load, ok.clock.remaining, ok.clock.amount, ok.clock.phase, ok.clock.remainder⟩
  · exact ok.hold.of_same (by rw [declareEra_ts]) (by rw [declareEra_ts]) (by rw [work.disc]) work.pending

/-- A share of the frequency correction leaves less than a whole tick (R12, R65). -/
theorem freqShare_remainder (estimate remainder : Int) (span : Nat) :
    (freqShare estimate remainder span).2.natAbs < 1000000000 := by
  simp only [freqShare]
  rw [Int.natAbs_tmod]
  exact Nat.mod_lt _ (by decide)

/-! ## Ticks and second boundaries -/

/-- With no hold, the time may advance by at most a second. -/
theorem advanceBy_timeOk (ticks : Nat) (most : ticks ≤ 125000000) (free : s.ts.hold = none) (ok : TimeOk s) :
    TimeOk (advanceBy ticks s) ∧ (advanceBy ticks s).ts.hold = none := by
  have work := advanceBy_clockWork s ticks
  have valid : ∀ n : Nat, n % 137438953472 < 137438953472 := fun n => Nat.mod_lt _ (by decide)
  rcases advanceBy_cases s ticks with ⟨within, e⟩ | ⟨wraps, e, _⟩
  · rw [e]
    exact ⟨ok.unheld ⟨⟨ok.clock.now.1, within⟩, ok.clock.load, ok.clock.remaining, ok.clock.amount, ok.clock.phase,
      ok.clock.remainder⟩ free rfl, free⟩
  · have before := ok.clock.now.2
    have unheld : (advanceBy ticks s).ts.hold = none := by rw [e]; exact free
    refine ⟨⟨?_, holdOk_of_none unheld, work.disciplineOk ok.discipline⟩, unheld⟩
    rw [e]
    refine ⟨⟨valid _, ?_⟩, ok.clock.load, ok.clock.remaining, ok.clock.amount, ok.clock.phase, ok.clock.remainder⟩
    dsimp only [Config.ticksPerSecond]
    omega

theorem FreeRun.advance_le (r : FreeRun) (tick : Nat) : r.advance tick ≤ 2 := by
  unfold FreeRun.advance
  split
  · split <;> decide
  · decide

theorem tickTimescale_timeOk (ok : TimeOk s) : TimeOk (tickTimescale s) := by
  have shape := ok.clock
  unfold tickTimescale
  cases held : s.ts.hold with
  | some left =>
    refine ⟨⟨shape.now, shape.load, shape.remaining, shape.amount, shape.phase, shape.remainder⟩, fun _ => ?_,
      (setTs_clockWork s _ (by rfl)).disciplineOk ok.discipline⟩
    exact ok.hold (by rw [held]; rfl)
  | none =>
    dsimp only
    split
    · exact (advanceBy_timeOk 1 (by decide) held ok).1
    · refine And.left (advanceBy_timeOk _ ((FreeRun.advance_le _ _).trans (by decide)) (by exact held) ?_)
      exact ok.unheld ⟨shape.now, shape.load, shape.remaining, shape.amount, shape.phase, shape.remainder⟩ held rfl

theorem finishAmount_timeOk (ok : TimeOk s) : TimeOk (finishAmount s) := by
  have shape := ok.clock
  unfold finishAmount
  split
  · exact ok.reset ⟨shape.now, shape.load, shape.remaining, shape.amount, foldTicks_range _, shape.remainder⟩ rfl rfl rfl
  · exact ok

theorem loadSeconds_timeOk (v : Nat) (range : v < 137438953472) (ok : TimeOk s) : TimeOk (loadSeconds v s) := by
  have shape := ok.clock
  exact ok.reset ⟨⟨range, shape.now.2⟩, nofun, shape.remaining, shape.amount, shape.phase, shape.remainder⟩ rfl rfl rfl

theorem applyLoad_timeOk (ok : TimeOk s) : TimeOk (applyLoad s) := by
  unfold applyLoad
  split
  · exact ok
  · rename_i v staged
    have loaded := loadSeconds_timeOk v (ok.clock.load v staged) ok
    dsimp only
    split
    · exact (takeJump_schedulePart _ _ _ _).timeOk (declareEra_timeOk _ loaded)
    · exact loaded

/-- The slew taken at a boundary leaves no more to be slewed than before (R11). -/
theorem sub_clampMag_le (z : Int) (b : Nat) : (z - clampMag z b).natAbs ≤ z.natAbs := by
  unfold clampMag
  omega

theorem takeSlewAmount_timeOk (ok : TimeOk s) : TimeOk (takeSlewAmount s) := by
  have shape := ok.clock
  have rate := (rate_of_inRange ok.discipline.config).2
  have remaining := (sub_clampMag_le s.ts.remainingSlew s.disc.config.slewRate).trans shape.remaining
  have amount := (clampMag_le s.ts.remainingSlew s.disc.config.slewRate).trans rate
  unfold takeSlewAmount
  dsimp only
  split
  · exact ok.reset ⟨shape.now, shape.load, remaining, amount, shape.phase, shape.remainder⟩ rfl rfl rfl
  · exact ok.reset ⟨shape.now, shape.load, remaining, amount, shape.phase, freqShare_remainder _ _ _⟩ rfl rfl rfl

theorem carryBoundary_timeOk (ok : TimeOk s) : TimeOk (carryBoundary s) := by
  have shape := ok.clock
  refine takeSlewAmount_timeOk (applyLoad_timeOk (finishAmount_timeOk (ok.reset ?_ rfl rfl rfl)))
  exact ⟨shape.now, shape.load, shape.remaining, shape.amount, shape.phase, shape.remainder⟩

/-! ## Anchoring and acquisition -/

theorem correct_timeOk (distance : Int) (range : -62499999 ≤ distance ∧ distance ≤ 62500000)
    (isAnchored : anchored s = true) (ok : TimeOk s) : TimeOk (correct distance s) := by
  have shape := ok.clock
  have free : TimeOk (setTs { s.ts with hold := none } s) :=
    ok.unheld ⟨shape.now, shape.load, shape.remaining, shape.amount, shape.phase, shape.remainder⟩ rfl rfl
  have within := shape.now.2
  unfold correct
  dsimp only
  split
  · have moved := (fireReached_schedulePart _).timeOk
      (advanceBy_timeOk distance.toNat (by omega) rfl free).1
    split
    · exact carryBoundary_timeOk moved
    · exact moved
  · split
    · refine free.unheld ⟨⟨shape.now.1, ?_⟩, shape.load, shape.remaining, shape.amount, shape.phase,
        shape.remainder⟩ rfl rfl
      dsimp only
      omega
    · refine ⟨⟨⟨shape.now.1, show 0 < 125000000 by decide⟩, shape.load, shape.remaining, shape.amount, shape.phase, shape.remainder⟩,
        fun _ => ⟨isAnchored, rfl⟩, (setTs_clockWork _ _ (by rfl)).disciplineOk free.discipline⟩

theorem anchorStep_timeOk (p : Path) (isAnchored : anchored s = true) (ok : TimeOk s) : TimeOk (anchorStep p s) := by
  have shape := ok.clock
  unfold anchorStep
  refine correct_timeOk _ (foldTicks_range _) isAnchored (ok.reset ?_ rfl rfl rfl)
  exact ⟨shape.now, shape.load, shape.remaining, shape.amount, foldTicks_range _, shape.remainder⟩

/-- Anchoring begins with no hold and with the slew abandoned (R14, R19, R20). -/
theorem beginAnchored_clock (phase remaining : Int) (phaseRange : -62499999 ≤ phase ∧ phase ≤ 62500000)
    (remainingRange : remaining.natAbs ≤ 62500000) (shape : ClockShape s.ts) :
    ClockShape (beginAnchored phase remaining s).ts :=
  ⟨shape.now, shape.load, remainingRange, Nat.zero_le _, phaseRange, shape.remainder⟩

theorem enterLocked_ts : (enterLocked s).ts = s.ts := by
  simp [enterLocked]

theorem jumpSecond_lt (shape : ClockShape s.ts) : jumpSecond s < 137438953472 := by
  unfold jumpSecond
  split
  · exact Nat.mod_lt _ (by decide)
  · exact shape.now.1

/-- A timescale in range with no hold stays so when the time moves to tick 0 of another second. -/
theorem landed_clock (second : Nat) (range : second < 137438953472) (shape : ClockShape s.ts) (free : s.ts.hold = none) :
    ClockShape (setTs { s.ts with now := ⟨second, 0⟩, boundaryDue := false } s).ts ∧
      (setTs { s.ts with now := ⟨second, 0⟩, boundaryDue := false } s).ts.hold = none :=
  ⟨⟨⟨range, show 0 < 125000000 by decide⟩, shape.load, shape.remaining, shape.amount, shape.phase, shape.remainder⟩,
    free⟩

theorem loadSeconds_clock (v : Nat) (range : v < 137438953472) (shape : ClockShape s.ts) (free : s.ts.hold = none) :
    ClockShape (loadSeconds v s).ts ∧ (loadSeconds v s).ts.hold = none :=
  ⟨⟨⟨range, shape.now.2⟩, nofun, shape.remaining, shape.amount, shape.phase, shape.remainder⟩, free⟩

/-- The range of the time an acquisition jump loads (R20). -/
theorem acquireJump_clock (shape : ClockShape s.ts) :
    ClockShape (acquireJump s).ts ∧ (acquireJump s).ts.hold = none := by
  have base := beginAnchored_clock (s := s) 0 0 (by decide) (by decide) shape
  obtain ⟨jumped, unheld⟩ := landed_clock _ (jumpSecond_lt shape) base rfl
  have declared (u : State) (cause : EraCause) (new : TimeValue) (shape : ClockShape u.ts) (free : u.ts.hold = none) :
      ClockShape (takeJump (acquireForward s) s.ts.now new (enterLocked (declareEra cause u))).ts ∧
        (takeJump (acquireForward s) s.ts.now new (enterLocked (declareEra cause u))).ts.hold = none := by
    rw [(takeJump_schedulePart _ _ _ _).ts, enterLocked_ts, declareEra_ts]
    exact ⟨⟨shape.now, shape.load, shape.remaining, shape.amount, shape.phase, shape.remainder⟩, free⟩
  unfold acquireJump
  dsimp only
  split
  · exact declared _ _ _ jumped unheld
  · rename_i v staged
    obtain ⟨loaded, free⟩ := loadSeconds_clock v (shape.load v staged) jumped unheld
    exact declared _ _ _ loaded free

theorem completeAcquisition_timeOk (acquiring : s.disc.state = .acquiring) (ok : TimeOk s) :
    TimeOk (completeAcquisition s) := by
  have discipline := completeAcquisition_disciplineOk ok.discipline acquiring
  have clock : ClockShape (completeAcquisition s).ts ∧ (completeAcquisition s).ts.hold = none := by
    unfold completeAcquisition
    split
    · have range := foldTicks_range s.ts.now.tick
      rw [enterLocked_ts]
      exact ⟨beginAnchored_clock _ _ range (by unfold measuredOffset; omega) ok.clock, rfl⟩
    · exact acquireJump_clock ok.clock
  exact ⟨clock.1, holdOk_of_none clock.2, discipline⟩

/-- The parts not yet applied are read off the timescale, which stays. -/
theorem unappliedParts_ts : (unappliedParts s).2.ts = s.ts := by
  unfold unappliedParts
  dsimp only
  split <;> rfl

theorem measureSwitch_timeOk (pending : s.ts.switchPending = true) (ok : TimeOk s) : TimeOk (measureSwitch s) := by
  have shape := ok.clock
  have free := ok.hold.free (by simp [anchored, pending])
  refine ⟨?_, holdOk_of_none ?_, measureSwitch_disciplineOk ok.discipline⟩
  · unfold measureSwitch
    dsimp only [setTs]
    rw [unappliedParts_ts]
    exact ⟨shape.now, shape.load, clampMag_le _ _, shape.amount, foldTicks_range _, shape.remainder⟩
  · unfold measureSwitch
    dsimp only [setTs]
    rw [unappliedParts_ts, free]

theorem handStep_timeOk (p : Path) (marked : Bool) (ok : TimeOk s) : TimeOk (handStep p marked s) := by
  unfold handStep
  cases state : s.disc.state with
  | locked =>
    dsimp only
    split
    · split
      · exact measureSwitch_timeOk ‹_› ok
      · exact ok
    · rename_i settled
      exact anchorStep_timeOk p (anchored_iff.mpr ⟨state, Bool.not_eq_true _ ▸ settled⟩) ok
  | acquiring =>
    dsimp only
    split
    · exact completeAcquisition_timeOk state ok
    · exact ok
  | free => exact ok
  | holdover => exact ok

/-! ## Work of the discipline controller -/

/-- The timescale and its hold, as the controller must leave them. -/
def HeldClock (s : State) : Prop := ClockShape s.ts ∧ HoldOk s

/-- Setting the timescale free ends a hold (R14, R17). -/
theorem stopAnchoring_clock (ok : HeldClock s) :
    ClockShape (stopAnchoring s).ts ∧ (stopAnchoring s).ts.hold = none := by
  obtain ⟨shape, hold⟩ := ok
  unfold stopAnchoring
  split
  · exact ⟨⟨shape.now, shape.load, shape.remaining, shape.amount, shape.phase, freqShare_remainder _ _ _⟩, rfl⟩
  · exact ⟨shape, hold.free (Bool.not_eq_true _ ▸ ‹_›)⟩

theorem HeldClock.of_free (clock : ClockShape s.ts) (free : s.ts.hold = none) (ts : t.ts = s.ts) : HeldClock t :=
  ⟨ts ▸ clock, holdOk_of_none (ts ▸ free)⟩

theorem switchPath_clock (q : Path) (ok : HeldClock s) : HeldClock (switchPath q s) := by
  unfold switchPath
  dsimp only
  split
  · obtain ⟨shape, free⟩ := stopAnchoring_clock ok
    refine HeldClock.of_free
      (s := setTs { (stopAnchoring s).ts with switchPending := true } (stopAnchoring s)) ?_ free (by simp)
    exact ⟨shape.now, shape.load, shape.remaining, shape.amount, shape.phase, shape.remainder⟩
  · rename_i notLocked
    exact HeldClock.of_free ok.1 (ok.2.free (by simp [anchored, notLocked])) (by simp)

theorem losePath_clock (byPath : Bool) (ok : HeldClock s) : HeldClock (losePath byPath s) := by
  have unlocked (notLocked : s.disc.state ≠ .locked) : s.ts.hold = none := ok.2.free (by simp [anchored, notLocked])
  have freed := stopAnchoring_clock ok
  have settled : ClockShape (setTs { (stopAnchoring s).ts with switchPending := false } (stopAnchoring s)).ts :=
    ⟨freed.1.now, freed.1.load, freed.1.remaining, freed.1.amount, freed.1.phase, freed.1.remainder⟩
  unfold losePath
  cases state : s.disc.state with
  | acquiring =>
    dsimp only
    split <;> exact HeldClock.of_free ok.1 (unlocked (by rw [state]; decide)) (by simp)
  | locked =>
    dsimp only
    split <;> exact HeldClock.of_free settled freed.2 (by simp)
  | free => exact HeldClock.of_free ok.1 (unlocked (by rw [state]; decide)) (by simp)
  | holdover => exact HeldClock.of_free ok.1 (unlocked (by rw [state]; decide)) (by simp)

theorem evaluate_clock (shape : DisciplineShape s.disc s.ts.switchPending) (ok : HeldClock s) :
    HeldClock (evaluate s) := by
  rcases evaluate_cases s with ⟨_, e⟩ | ⟨q, none, _, e⟩ | ⟨p, q, _, _, _, e⟩ | ⟨p, _, _, e⟩ <;> rw [e]
  · exact ok
  · have notLocked : s.disc.state ≠ .locked := fun locked => by
      rcases shape.resting none with state | state <;> rw [state] at locked <;> cases locked
    exact HeldClock.of_free ok.1 (ok.2.free (by simp [anchored, notLocked])) (by simp [gainPath])
  · exact switchPath_clock q ok
  · exact losePath_clock _ ok

theorem expireHoldover_clock (ok : HeldClock s) : HeldClock (expireHoldover s) := by
  have same (d : Discipline) (state : d.state = s.disc.state) : HeldClock (setDisc d s) :=
    ⟨ok.1, ok.2.of_same rfl rfl state rfl⟩
  unfold expireHoldover
  cases state : s.disc.state with
  | holdover => exact HeldClock.of_free ok.1 (ok.2.free (by simp [anchored, state])) (by simp)
  | acquiring => exact same _ rfl
  | free => exact same _ rfl
  | locked => exact same _ rfl

theorem applyHoldoverLimit_clock (ok : HeldClock s) : HeldClock (applyHoldoverLimit s) := by
  have same (d : Discipline) (state : d.state = s.disc.state) : HeldClock (setDisc d s) :=
    ⟨ok.1, ok.2.of_same rfl rfl state rfl⟩
  unfold applyHoldoverLimit
  split
  · split
    · exact same _ rfl
    · split
      · exact expireHoldover_clock ok
      · exact ok
  · split
    · exact same _ rfl
    · exact ok

theorem applyConfig_clock (limit : Nat) (shape : DisciplineShape s.disc s.ts.switchPending) (ok : HeldClock s) :
    HeldClock (applyConfig limit s) := by
  have limitFirst (u : State) (shape : DisciplineShape u.disc u.ts.switchPending) (ok : HeldClock u) :
      HeldClock (evaluate (applyHoldoverLimit u)) :=
    evaluate_clock (applyHoldoverLimit_shape shape).1 (applyHoldoverLimit_clock ok)
  rcases applyConfig_cases s limit with ⟨_, e⟩ | ⟨_, e | e⟩ <;> rw [e]
  · exact limitFirst s shape ok
  · exact limitFirst _ shape ok
  · exact applyHoldoverLimit_clock (evaluate_clock (s := { s with choices := s.choices + 1 }) shape ok)

/-- A change of path state is handed on (R37). -/
theorem TimeOk.changed {p : Path} {m : Monitor} {fault : Option FaultKind} (ok : TimeOk s) :
    TimeOk (changePath p m fault s) := by
  have told : HeldClock (raise .path
      (appendRecord (.path p (s.mon p).state ((setMon p m s).mon p).state fault
        (decide ((setMon p m s).disc.selected = some p))) (setMon p m s))) :=
    ⟨by simpa using ok.clock, ok.hold.of_same (by simp) (by simp) (by simp) (by simp)⟩
  have kept : HeldClock (changePath p m fault s) :=
    evaluate_clock (by simpa using (disciplineOk_iff.mp ok.discipline).1) told
  exact ⟨kept.1, kept.2, ok.discipline.changed⟩

theorem PathWork.timeOk {p : Path} (h : PathWork p s t) (ok : TimeOk s) : TimeOk t := by
  induction h with
  | refl => exact ok
  | updated _ m same ih =>
    exact ⟨by simpa using ih.clock, ih.hold.of_same (by simp) (by simp) (by simp) (by simp), ih.discipline.updated same⟩
  | changed _ m fault ih => exact ih.changed
  | @learned u _ ticks range ih =>
    have kept : (handCleanSecond ticks u).ts = u.ts ∧ (handCleanSecond ticks u).disc.state = u.disc.state := by
      unfold handCleanSecond
      split <;> exact ⟨rfl, rfl⟩
    exact ⟨by rw [kept.1]; exact ih.clock,
      ih.hold.of_same (by rw [kept.1]) (by rw [kept.1]) kept.2 (by rw [kept.1]), ih.discipline.learned range⟩

theorem takeStep_timeOk (p : Path) (marked : Bool) (ok : TimeOk s) : TimeOk (takeStep p marked s) := by
  obtain ⟨u, work, e | ⟨_, e⟩⟩ := takeStep_cases p marked s <;> rw [e]
  · exact work.timeOk ok
  · exact handStep_timeOk p marked (work.timeOk ok)

/-! ## The effects of a step -/

theorem abandonFreeSlew_timeOk (ok : TimeOk s) : TimeOk (abandonFreeSlew s) := by
  have shape := ok.clock
  have parts := unappliedParts_clockWork s
  unfold abandonFreeSlew
  split
  · exact ok
  · have kept : TimeOk (unappliedParts s).2 := ok.of_same unappliedParts_ts parts.disc parts.mon
    refine kept.reset ?_ rfl rfl rfl
    rw [unappliedParts_ts]
    exact ⟨shape.now, shape.load, shape.remaining, shape.amount, shape.phase, shape.remainder⟩

theorem scheduleReset_timeOk (ok : TimeOk s) : TimeOk (scheduleReset s) :=
  ok.of_same rfl rfl (scheduleReset_clockWork s).mon

theorem timescaleReset_timeOk (ok : TimeOk s) : TimeOk (timescaleReset s) := by
  have free := abandonFreeSlew_timeOk ok
  have shape := free.clock
  unfold timescaleReset
  refine scheduleReset_timeOk (declareEra_timeOk _ (free.reset ?_ (by rfl) (by rfl) (by rfl)))
  exact ⟨⟨show 0 < 137438953472 by decide, shape.now.2⟩, nofun, Nat.zero_le _, Nat.zero_le _, shape.phase,
    shape.remainder⟩

theorem stepTo_timeOk (forward : Bool) (n : Nat) (notLocked : s.disc.state ≠ .locked) (ok : TimeOk s) :
    TimeOk (stepTo forward (TimeValue.ofLin n) s) := by
  have shape := ok.clock
  have free := ok.hold.free (by simp [anchored, notLocked])
  unfold stepTo
  refine (takeJump_schedulePart _ _ _ _).timeOk (declareEra_timeOk _ (ok.unheld ?_ free rfl))
  exact ⟨ofLin_valid n, shape.load, shape.remaining, shape.amount, shape.phase, shape.remainder⟩

theorem RequestEffect.timeOk (h : RequestEffect s t) : ReportRequest s t ∨ (TimeOk s → TimeOk t) := by
  cases h with
  | reports effect => exact .inl effect
  | unchanged => exact .inr id
  | scheduleReset => exact .inr scheduleReset_timeOk
  | timescaleReset => exact .inr timescaleReset_timeOk
  | loadStaged v range =>
    refine .inr fun ok => ok.reset ?_ rfl rfl rfl
    refine ⟨ok.clock.now, fun w staged => ?_, ok.clock.remaining, ok.clock.amount, ok.clock.phase, ok.clock.remainder⟩
    cases staged
    exact range
  | loadCancelled =>
    refine .inr fun ok => ok.reset ?_ rfl rfl rfl
    exact ⟨ok.clock.now, nofun, ok.clock.remaining, ok.clock.amount, ok.clock.phase, ok.clock.remainder⟩
  | slewAdjusted total range =>
    refine .inr fun ok => ok.reset ?_ rfl rfl rfl
    exact ⟨ok.clock.now, ok.clock.load, range, ok.clock.amount, ok.clock.phase, ok.clock.remainder⟩
  | timeStepped forward n _ _ notLocked => exact .inr (stepTo_timeOk forward n notLocked)
  | pathConfigured p c => exact .inr (PathWork.refl.updated _ (by rfl)).timeOk
  | pathRefreshed p absent => exact .inr (PathWork.refl.updated _ absent.symm).timeOk
  | pathRestarted p => exact .inr fun ok => ok.changed
  | pathDisabled p => exact .inr fun ok => ok.changed
  | disciplineConfigured c range =>
    refine .inr fun ok => ?_
    obtain ⟨shape, _, _⟩ := disciplineOk_iff.mp ok.discipline
    have configured : DisciplineShape { s.disc with config := c } s.ts.switchPending :=
      ⟨shape.selected, shape.returns, shape.timer, shape.estimate, range, shape.switching⟩
    obtain ⟨clock, hold⟩ := applyConfig_clock s.disc.config.holdoverLimit
      (s := setDisc { s.disc with config := c } s) configured ⟨ok.clock, ok.hold.of_same rfl rfl rfl rfl⟩
    exact ⟨clock, hold, applyConfig_disciplineOk _ configured⟩
  | entryAdmitted raw d =>
    refine .inr fun ok => ?_
    rcases admitChecked_schedulePart s d with e | part
    · exact e.symm ▸ ok
    · exact part.timeOk (ok.of_same (t := countAdmission s) rfl rfl fun _ => rfl)
  | entryWithdrawn handle e =>
    refine .inr fun ok => (reportRemoved_schedulePart _ _ e).timeOk ?_
    exact ok.of_same (t := removeEntry handle s) rfl rfl fun _ => rfl
  | lineConfigured => exact .inr fun ok => ok.of_same rfl rfl fun _ => rfl
  | lineDriven => exact .inr fun ok => ok.of_same rfl rfl fun _ => rfl
  | captureConfigured => exact .inr fun ok => ok.of_same rfl rfl fun _ => rfl

theorem EventEffect.timeOk (h : EventEffect s t) : LinkEvent s t ∨ (TimeOk s → TimeOk t) := by
  cases h with
  | link effect => exact .inl effect
  | boundaryCarried => exact .inr carryBoundary_timeOk
  | holdEnded =>
    refine .inr fun ok => ok.unheld ?_ rfl rfl
    exact ⟨ok.clock.now, ok.clock.load, ok.clock.remaining, ok.clock.amount, ok.clock.phase, ok.clock.remainder⟩
  | fired a => exact .inr (fireOrdinary_schedulePart s a).timeOk
  | stepTaken p marked => exact .inr (takeStep_timeOk p marked)
  | windowExpired p => exact .inr (expireWindow_pathWork p s).timeOk
  | pathTimedOut p => exact .inr fun ok => ok.changed
  | holdoverExpired =>
    refine .inr fun ok => ?_
    obtain ⟨clock, hold⟩ := expireHoldover_clock ⟨ok.clock, ok.hold⟩
    exact ⟨clock, hold, expireHoldover_disciplineOk ok.discipline⟩
  | pulseEnded => exact .inr fun ok => ok.of_same rfl rfl fun _ => rfl
  | sampled i level =>
    have work := (takeSample_captureWork (markSampled i s) i level).1
    exact .inr fun ok => ok.of_same work.ts work.disc work.mon
  | deadTimeEnded => exact .inr fun ok => ok.of_same rfl rfl fun _ => rfl

/-- The timers of a tick leave the timescale and the controller's state. -/
theorem tick_timeOk (running : s.run = .running) (ok : TimeOk s) : TimeOk (tick s) := by
  have discipline := tickTimers_disciplineOk ok.discipline
  rw [tick_running s running]
  exact tickTimescale_timeOk ⟨ok.clock, ok.hold.of_same rfl rfl rfl rfl, discipline⟩

theorem timeOk_fullReset (cause : StartCause) (inBreak : Bool) (pins : PinSample) : TimeOk (fullReset cause inBreak pins s) :=
  ⟨⟨⟨show 0 < 137438953472 by decide, show 0 < 125000000 by decide⟩, nofun, Nat.zero_le _, Nat.zero_le _,
    show -62499999 ≤ (0 : Int) ∧ (0 : Int) ≤ 62500000 by decide, show 0 < 1000000000 by decide⟩, nofun,
    disciplineOk_fullReset _ _ _⟩

theorem timeOk_invariant : StepInvariant TimeOk where
  same same ok := ok.of_same same.ts same.disc same.mon
  reset _ _ _ _ := timeOk_fullReset _ _ _
  request := RequestEffect.timeOk
  event := EventEffect.timeOk
  tick _ := tick_timeOk

/-- Settles O56: the ranges of the timescale are an invariant of the steps, with the shape of the controller. -/
theorem clockStaysInRange : Obligations.ClockStaysInRange := fun _ _ clock discipline h =>
  (timeOk_iff.mp (timeOk_invariant.keeps_step (timeOk_iff.mpr ⟨clock, discipline⟩) h)).1

end Clock

end Sys2Proof.Machine

/-! PROOFS. The entries of the schedule as one stock: what each operation of the lists does to it, and an operation as taking
an entry out, acting for it and putting it back. -/

namespace Sys2Proof.Machine

/-! ## The entries of the lists -/

section Entries

variable (s : State)

/-- Replacing one list of a group exchanges its members for the new ones. -/
theorem flatten_set_perm {α : Type} (l : List α) :
    ∀ (lists : List (List α)) (i : Nat) (h : i < lists.length),
      (lists[i] ++ (lists.set i l).flatten).Perm (l ++ lists.flatten)
  | [], _, h => absurd h (Nat.not_lt_zero _)
  | m :: rest, 0, _ => List.perm_append_comm_assoc m l rest.flatten
  | m :: rest, i + 1, h =>
    have h : i < rest.length := Nat.lt_of_succ_lt_succ h
    calc (rest[i] ++ (m ++ (rest.set i l).flatten)).Perm (m ++ (rest[i] ++ (rest.set i l).flatten)) :=
          List.perm_append_comm_assoc _ _ _
      _ |>.Perm (m ++ (l ++ rest.flatten)) := (flatten_set_perm l rest i h).append_left m
      _ |>.Perm (l ++ (m ++ rest.flatten)) := List.perm_append_comm_assoc _ _ _

theorem setWaiting_entries (i : Fin 4) (l : List Entry) :
    (s.sched.waiting[i] ++ (setWaiting i l s).sched.entries).Perm (l ++ s.sched.entries) := by
  have waiting := flatten_set_perm l s.sched.waiting.toList i (by simp)
  have exchanged (m : List Entry) :
      (s.sched.waiting.toList[i] ++ (m ++ (s.sched.waiting.toList.set i l).flatten)).Perm
        (l ++ (m ++ s.sched.waiting.toList.flatten)) :=
    (List.perm_append_comm_assoc _ _ _).trans ((waiting.append_left m).trans (List.perm_append_comm_assoc _ _ _))
  simpa [Schedule.entries, Schedule.allWaiting, setWaiting, Vector.toList_set] using exchanged _

/-- An entry that joins a waiting list joins the schedule (R73). -/
theorem joinWaiting_entries (i : Fin 4) (e : Entry) :
    (joinWaiting i e s).sched.entries.Perm (e :: s.sched.entries) := by
  have set := setWaiting_entries s i (s.sched.waiting[i] ++ [e])
  rw [List.append_assoc] at set
  exact (List.perm_append_left_iff _).mp set

/-- An entry that is armed joins the schedule (R72). -/
theorem arm_entries (a : ArmedEntry) : (arm a s).sched.entries.Perm (a.entry :: s.sched.entries) :=
  (((insertArmed_perm a s.sched.armed).map ArmedEntry.entry).append_right _)

/-- Of entries with distinct handles, disarming one takes out just that one. -/
theorem filter_handle_perm (a : ArmedEntry) :
    ∀ (l : List ArmedEntry), (l.map ArmedEntry.handle).Nodup → a ∈ l →
      l.Perm (a :: l.filter fun b => b.handle != a.handle)
  | [], _, mem => absurd mem List.not_mem_nil
  | b :: rest, distinct, mem => by
    rw [List.map_cons, List.nodup_cons] at distinct
    obtain ⟨fresh, distinct⟩ := distinct
    rcases List.mem_cons.mp mem with rfl | later
    · have kept : rest.filter (fun b => b.handle != a.handle) = rest := List.filter_eq_self.mpr fun c inRest => by
        have : c.handle ≠ a.handle := fun same => fresh (same ▸ List.mem_map_of_mem inRest)
        simpa using this
      rw [List.filter_cons_of_neg (by simp), kept]
    · have other : b.handle ≠ a.handle := fun same => fresh (same ▸ List.mem_map_of_mem later)
      rw [List.filter_cons_of_pos (by simpa using other)]
      exact ((filter_handle_perm a rest distinct later).cons b).trans (List.Perm.swap a b _)

theorem armed_handles_nodup (distinct : (s.sched.entries.map fun e => e.desc.handle).Nodup) :
    (s.sched.armed.map ArmedEntry.handle).Nodup := by
  rw [Schedule.entries, List.map_append, List.map_map] at distinct
  exact (List.nodup_append.mp distinct).1

theorem disarm_entries (a : ArmedEntry) (distinct : (s.sched.entries.map fun e => e.desc.handle).Nodup)
    (armed : a ∈ s.sched.armed) :
    s.sched.entries.Perm (a.entry :: (disarm a.handle s).sched.entries) :=
  ((filter_handle_perm a _ (armed_handles_nodup s distinct) armed).map ArmedEntry.entry).append_right _

/-- Removing an entry leaves the entries with another handle (R86). -/
theorem removeEntry_entries (handle : Nat) :
    (removeEntry handle s).sched.entries = s.sched.entries.filter fun e => e.desc.handle != handle := by
  simp only [removeEntry, Schedule.entries, Schedule.allWaiting, List.filter_append, List.filter_flatten,
    mapVec_eq_map, Vector.toList_map, List.filter_map]
  rfl

end Entries

/-! ## The stock -/

/-- Entries within the capacity of the schedule, with distinct handles, each on a SCHEDULED line (R74, R80). -/
structure Stocked (l : List Entry) (lines : Vector OutLine 8) : Prop where
  capacity : l.length ≤ 64
  handles : (l.map fun e => e.desc.handle).Nodup
  lines : ∀ e ∈ l, lines[e.desc.line].mode = .scheduled

namespace Stocked

variable {l m : List Entry} {lines lines' : Vector OutLine 8} {e e' : Entry}

theorem perm (h : Stocked l lines) (p : l.Perm m) : Stocked m lines :=
  ⟨p.length_eq ▸ h.capacity, (p.map _).nodup_iff.mp h.handles, fun e mem => h.lines e (p.mem_iff.mpr mem)⟩

theorem sublist (h : Stocked l lines) (sub : m.Sublist l) : Stocked m lines :=
  ⟨sub.length_le.trans h.capacity, (sub.map _).nodup h.handles, fun e mem => h.lines e (sub.mem mem)⟩

/-- An entry may be replaced by one with the same descriptor. -/
theorem replace (h : Stocked (e :: l) lines) (same : e'.desc = e.desc) : Stocked (e' :: l) lines := by
  obtain ⟨capacity, handles, scheduled⟩ := h
  refine ⟨capacity, by simpa [same] using handles, fun x mem => ?_⟩
  rcases List.mem_cons.mp mem with rfl | mem
  · simpa [same] using scheduled e List.mem_cons_self
  · exact scheduled x (List.mem_cons_of_mem _ mem)

theorem of_modes (h : Stocked l lines) (modes : ∀ i : Fin 8, lines'[i].mode = lines[i].mode) : Stocked l lines' :=
  ⟨h.capacity, h.handles, fun e mem => (modes _).trans (h.lines e mem)⟩

end Stocked

/-! ## Entries in hand -/

/-- The schedule is in order while the entries of a list are in hand, taken out of it or not yet put in; with the trailing
edges in order where `c` asks for them. -/
structure Holding (c : Prop) (l : List Entry) (s : State) : Prop where
  stock : Stocked (l ++ s.sched.entries) s.lines
  order : armedInOrder s.sched.armed
  waiting : ∀ (i : Fin 4), ∀ e ∈ s.sched.waiting[i], waitsOn i e
  unset : s.ts.timeState = .unset → l ++ s.sched.entries = []
  pulses : c → LinesOk s

section Holding

variable {c : Prop} {l : List Entry} {s t : State} {e e' : Entry}

/-- With nothing in hand, the schedule is in order. -/
theorem holding_nil_iff : Holding c [] s ↔ ScheduleOk s ∧ (c → LinesOk s) :=
  ⟨fun h => ⟨⟨h.stock.capacity, h.stock.handles, h.order, h.waiting, h.unset, h.stock.lines⟩, h.pulses⟩,
    fun ⟨h, pulses⟩ => ⟨⟨h.capacity, h.handles, h.lines⟩, h.order, h.waiting, h.unset, pulses⟩⟩

namespace Holding

theorem arm {a : ArmedEntry} (h : Holding c (a.entry :: l) s) : Holding c l (arm a s) := by
  have moved : (a.entry :: l ++ s.sched.entries).Perm (l ++ (Machine.arm a s).sched.entries) :=
    List.perm_middle.symm.trans ((arm_entries s a).symm.append_left l)
  refine ⟨h.stock.perm moved, insertArmed_inOrder a _ h.order, h.waiting, fun unset => ?_, h.pulses⟩
  cases h.unset unset

theorem joinWaiting {i : Fin 4} (h : Holding c (e :: l) s) (waits : waitsOn i e) :
    Holding c l (joinWaiting i e s) := by
  have moved : (e :: l ++ s.sched.entries).Perm (l ++ (Machine.joinWaiting i e s).sched.entries) :=
    List.perm_middle.symm.trans ((joinWaiting_entries s i e).symm.append_left l)
  refine ⟨h.stock.perm moved, h.order, fun j x mem => ?_, fun unset => ?_, h.pulses⟩
  · by_cases own : i = j
    · subst own
      simp only [Machine.joinWaiting, setWaiting_sched, Fin.getElem_fin, Vector.getElem_set_self] at mem
      rcases List.mem_append.mp mem with mem | mem
      · exact h.waiting i x mem
      · exact List.mem_singleton.mp mem ▸ waits
    · refine h.waiting j x ?_
      have other : (i : Nat) ≠ j := fun same => own (Fin.ext same)
      simpa [Machine.joinWaiting, Vector.getElem_set_ne, other] using mem
  · cases h.unset unset

/-- An entry in hand may be dropped. -/
theorem drop (h : Holding c (e :: l) s) : Holding c l s :=
  ⟨h.stock.sublist (List.sublist_cons_self _ _), h.order, h.waiting, fun unset => (nomatch h.unset unset), h.pulses⟩

/-- An armed entry may be taken in hand. -/
theorem disarm {a : ArmedEntry} (h : Holding c [] s) (armed : a ∈ s.sched.armed) :
    Holding c [a.entry] (disarm a.handle s) := by
  have taken := disarm_entries s a h.stock.handles armed
  refine ⟨h.stock.perm taken, filter_inOrder _ _ h.order, h.waiting, fun unset => ?_, h.pulses⟩
  have := taken.length_eq
  rw [show s.sched.entries = [] from h.unset unset] at this
  cases this

theorem replace (h : Holding c (e :: l) s) (same : e'.desc = e.desc) : Holding c (e' :: l) s :=
  ⟨h.stock.replace same, h.order, h.waiting, fun unset => (nomatch h.unset unset), h.pulses⟩

/-- What leaves the lists and the modes of the lines, and does not unset the time, leaves the schedule in order. -/
theorem of_frame (h : Holding c l s) (sched : t.sched = s.sched)
    (modes : ∀ i : Fin 8, t.lines[i].mode = s.lines[i].mode)
    (unset : t.ts.timeState = .unset → s.ts.timeState = .unset) (pulses : c → LinesOk s → LinesOk t) :
    Holding c l t := by
  refine ⟨?_, ?_, ?_, ?_, fun asks => pulses asks (h.pulses asks)⟩
  · rw [sched]
    exact h.stock.of_modes modes
  · rw [sched]
    exact h.order
  · rw [sched]
    exact h.waiting
  · rw [sched]
    exact fun isUnset => h.unset (unset isUnset)

/-- The entries may change in how many wraps they await. -/
theorem lapped (h : Holding c l s) (f : ArmedEntry → ArmedEntry) (same : ∀ a, (f a).due = a.due ∧ (f a).entry = a.entry) :
    Holding c l (setArmed (s.sched.armed.map f) s) := by
  have entries : (setArmed (s.sched.armed.map f) s).sched.entries = s.sched.entries := by
    have : ArmedEntry.entry ∘ f = ArmedEntry.entry := funext fun a => (same a).2
    simp only [Schedule.entries, setArmed_sched, List.map_map, this]
    rfl
  exact ⟨entries ▸ h.stock, map_lap_inOrder f _ same h.order, h.waiting, entries ▸ h.unset, h.pulses⟩

end Holding

theorem LinesOk.of_lines (ok : LinesOk s) (lines : t.lines = s.lines) : LinesOk t := by
  rw [LinesOk, lines]
  exact ok

/-- What leaves the lists, the lines and the time state leaves the schedule in order. -/
theorem Holding.of_same (h : Holding c l s) (sched : t.sched = s.sched) (lines : t.lines = s.lines)
    (unset : t.ts.timeState = .unset → s.ts.timeState = .unset) : Holding c l t :=
  h.of_frame sched (fun i => by rw [lines]) unset fun _ ok => ok.of_lines lines

end Holding

end Sys2Proof.Machine

/-! PROOFS. The schedule stays in order and trailing edges stay on SCHEDULED lines: firings, jumps, admissions, and then the
steps of the part. -/

namespace Sys2Proof.Machine

section Schedule

variable {c : Prop} {l : List Entry} {s t : State} {e : Entry}

/-! ## Firings -/

/-- A line that changes without its mode, with its trailing edge in order, leaves the lines in order. -/
theorem setLine_modes {i : Fin 8} {o : OutLine} (mode : o.mode = s.lines[i].mode) (j : Fin 8) :
    (setLine i o s).lines[j].mode = s.lines[j].mode := by
  by_cases own : i = j
  · subst own
    simpa using mode
  · have other : (i : Nat) ≠ j := fun same => own (Fin.ext same)
    simp [Vector.getElem_set_ne, other]

theorem LinesOk.set {i : Fin 8} {o : OutLine} (ok : LinesOk s)
    (own : o.trailing.isSome = true → o.mode = .scheduled ∧ o.level = flipLevel o.idle) : LinesOk (setLine i o s) := by
  intro j
  by_cases same : i = j
  · subst same
    simpa using own
  · have other : (i : Nat) ≠ j := fun eq => same (Fin.ext eq)
    have := ok j
    simpa [Vector.getElem_set_ne, other] using this

/-- An action on a line of its own mode leaves the schedule and the lines in order (R94, R111 to R115). -/
theorem Holding.acted (h : Holding c (e :: l) s) (a : Action) :
    Holding c (e :: l) (setLine e.desc.line (applyAction a s.lines[e.desc.line]).1 s) := by
  refine h.of_frame rfl (setLine_modes (by simp)) id fun _ ok => ok.set fun pending => ?_
  obtain ⟨w, _, done⟩ := applyAction_trailing a _ pending
  have scheduled := h.stock.lines e List.mem_cons_self
  rw [done]
  exact ⟨scheduled, rfl⟩

theorem Holding.recorded (h : Holding c l s) (body : RecordBody) : Holding c l (appendRecord body s) :=
  h.of_same (by simp) (by simp) (by simp)

theorem Holding.raised (h : Holding c l s) (k : AttnKind) : Holding c l (raise k s) :=
  h.of_same (by simp) (by simp) (by simp)

theorem Holding.fireAction (h : Holding c (e :: l) s) (late : Bool) :
    Holding c ((fireAction late e s).1 :: l) (fireAction late e s).2 := by
  refine Holding.replace (e := e) ?_ rfl
  unfold Machine.fireAction
  dsimp only
  split
  · exact (h.acted e.desc.action).recorded _
  · exact h.acted e.desc.action

/-- An entry in hand is reported and gone. -/
theorem Holding.reportRemoved (h : Holding c (e :: l) s) (o : RemovalOutcome) : Holding c l (reportRemoved o e s) := by
  unfold Machine.reportRemoved
  split
  · exact h.drop.recorded _
  · exact h.drop

/-- The end of a burst puts the entry in hand back on its waiting list, or removes it (R97, R98, R104). -/
theorem Holding.endBurst (h : Holding c (e :: l) s) (o : RemovalOutcome) : Holding c l (endBurst o e s) := by
  unfold Machine.endBurst
  split
  · rename_i start
    exact (h.replace (e' := { e with remaining := e.desc.burstCount }) rfl).joinWaiting ⟨_, _, start⟩
  · exact h.reportRemoved o
  · exact h.reportRemoved o

@[simp] theorem advance_entry (a : ArmedEntry) (ticks : Nat) : (a.advance ticks).entry = a.entry := by
  cases a; rfl

/-- An armed entry in hand may be armed again with its due time moved on (R75). -/
theorem Holding.arm_advanced {a : ArmedEntry} (h : Holding c (a.entry :: l) s) (ticks : Nat) :
    Holding c l (Machine.arm (a.advance ticks) s) := by
  refine Holding.arm ?_
  rw [advance_entry]
  exact h

/-- An armed entry in hand moves on (R96 to R98, R103, R104). -/
theorem Holding.settle {a : ArmedEntry} (h : Holding c (a.entry :: l) s) (k : Nat) (o : RemovalOutcome) :
    Holding c l (settle k o a s) := by
  unfold Machine.settle
  split
  · exact h.endBurst o
  · split
    · exact h.arm_advanced _
    · split
      · exact Holding.arm_advanced (a := { a with entry := { a.entry with remaining := a.entry.remaining - k } })
          (h.replace rfl) _
      · exact h.endBurst o

theorem Holding.fireOrdinary {a : ArmedEntry} (h : Holding c [] s) (armed : a ∈ s.sched.armed) :
    Holding c [] (fireOrdinary a s) := by
  unfold Machine.fireOrdinary
  exact Holding.settle (a := { a with entry := (Machine.fireAction false a.entry (Machine.disarm a.handle s)).1 })
    ((h.disarm armed).fireAction false) 1 .complete

/-- The end of a pulse leaves its line at its idle level (R116). -/
theorem Holding.endPulse (h : Holding c l s) (i : Fin 8) : Holding c l (endPulse i s) :=
  h.of_frame rfl (setLine_modes rfl) id fun _ ok => ok.set nofun

/-- A choice among actions is one of them, and touches only the count of choices. -/
theorem pick_state {α : Type} (x : α) (xs : List α) :
    (pick x xs s).2 = s ∨ (pick x xs s).2 = { s with choices := s.choices + 1 } := by
  unfold pick
  split
  · exact .inl rfl
  · exact .inr rfl

theorem Holding.picked {α : Type} (h : Holding c l s) (x : α) (xs : List α) : Holding c l (pick x xs s).2 := by
  rcases @pick_state s α x xs with e | e <;> rw [e]
  · exact h
  · exact h.of_same rfl rfl id

theorem Holding.fireAll (n : Nat) (h : Holding c [] s) : Holding c [] (fireAll n s) := by
  induction n generalizing s with
  | zero => exact h
  | succ n ih =>
    unfold Machine.fireAll
    split
    · exact h
    · rename_i act rest acts
      refine ih ?_
      obtain ⟨a, mayFire, next⟩ := List.mem_flatMap.mp (acts ▸ pick_mem s act rest)
      have picked := h.picked act rest
      have armed : a ∈ (pick act rest s).2.sched.armed := by
        rcases @pick_state s _ act rest with e | e <;> rw [e] <;> exact (mem_firable mayFire).1
      rcases nextOnLine_cases next with e | ⟨_, e⟩ <;> rw [e]
      · exact picked.fireOrdinary armed
      · exact picked.endPulse _

/-! ## Jumps -/

/-- Moving an entry on leaves the other armed entries armed. -/
theorem settle_armed {k : Nat} {o : RemovalOutcome} {a b : ArmedEntry} (armed : b ∈ s.sched.armed) :
    b ∈ (settle k o a s).sched.armed := by
  have ended (e : Entry) : b ∈ (endBurst o e s).sched.armed := by
    unfold endBurst reportRemoved
    split
    · exact armed
    · split
      · simpa using armed
      · exact armed
    · split
      · simpa using armed
      · exact armed
  unfold settle
  split
  · exact ended _
  · split
    · exact mem_insertArmed.mpr (.inr armed)
    · split
      · exact mem_insertArmed.mpr (.inr armed)
      · exact ended _

theorem fireAction_sched (late : Bool) : (fireAction late e s).2.sched = s.sched := by
  unfold fireAction
  dsimp only
  split <;> simp

theorem overtakeOne_armed {limit : Int} {a b : ArmedEntry} (armed : b ∈ s.sched.armed) (other : b.handle ≠ a.handle) :
    b ∈ (overtakeOne limit a s).sched.armed := by
  have kept : b ∈ (disarm a.handle s).sched.armed := List.mem_filter.mpr ⟨armed, by simpa using other⟩
  unfold overtakeOne
  dsimp only
  split
  · exact settle_armed (by rwa [raise_sched, fireAction_sched])
  · exact settle_armed (by rwa [raise_sched])

theorem Holding.overtakeOne {a : ArmedEntry} (h : Holding c [] s) (armed : a ∈ s.sched.armed) (limit : Int) :
    Holding c [] (overtakeOne limit a s) := by
  have taken := h.disarm armed
  unfold Machine.overtakeOne
  dsimp only
  split
  · exact Holding.settle (a := { a with entry := (Machine.fireAction true a.entry (Machine.disarm a.handle s)).1 })
      ((taken.fireAction true).raised _) _ _
  · exact (taken.raised _).settle _ _

/-- Armed entries with distinct handles may be overtaken one after the other (R102 to R104). -/
theorem Holding.overtakeAll (limit : Int) (passed : List ArmedEntry) (distinct : (passed.map ArmedEntry.handle).Nodup)
    (armed : ∀ a ∈ passed, a ∈ s.sched.armed) (h : Holding c [] s) :
    Holding c [] (passed.foldl (fun t a => Machine.overtakeOne limit a t) s) := by
  induction passed generalizing s with
  | nil => exact h
  | cons a rest ih =>
    rw [List.map_cons, List.nodup_cons] at distinct
    obtain ⟨fresh, distinct⟩ := distinct
    refine ih distinct (fun b later => ?_) (h.overtakeOne (armed a List.mem_cons_self) limit)
    refine overtakeOne_armed (armed b (List.mem_cons_of_mem _ later)) fun same => fresh ?_
    exact same ▸ List.mem_map_of_mem later

theorem afterJump_same (new : TimeValue) (a : ArmedEntry) :
    (a.afterJump new).due = a.due ∧ (a.afterJump new).entry = a.entry := by
  cases a
  exact ⟨rfl, rfl⟩

/-- A jump leaves the schedule in order (R101 to R106). -/
theorem Holding.takeJump (h : Holding c [] s) (forward : Bool) (old new : TimeValue) :
    Holding c [] (takeJump forward old new s) := by
  unfold Machine.takeJump
  dsimp only
  refine Holding.lapped ?_ _ (afterJump_same new)
  split
  · refine h.overtakeAll _ _ ?_ fun a passed => (List.mem_filter.mp passed).1
    exact (List.filter_sublist.map _).nodup (armed_handles_nodup s h.stock.handles)
  · exact h

/-! ## The timescale -/

theorem Holding.timed (h : Holding c [] s) (c' : Timescale) (unset : c'.timeState = .unset → s.ts.timeState = .unset) :
    Holding c [] (setTs c' s) := h.of_same rfl rfl unset

theorem Holding.declared (h : Holding c [] s) (cause : EraCause) : Holding c [] (declareEra cause s) := by
  unfold declareEra
  exact ((h.timed _ (by exact id)).recorded _).raised _

theorem Holding.advanced (h : Holding c [] s) (ticks : Nat) : Holding c [] (advanceBy ticks s) := by
  unfold advanceBy
  dsimp only
  split
  · exact h.timed _ (by exact id)
  · split
    · exact (h.timed _ (by exact id)).lapped _ fun a => ⟨rfl, rfl⟩
    · exact h.timed _ (by exact id)

theorem Holding.tickTimescale (h : Holding c [] s) : Holding c [] (tickTimescale s) := by
  unfold Machine.tickTimescale
  split
  · exact h.timed _ (by exact id)
  · split
    · exact h.advanced _
    · exact (h.timed _ (by exact id)).advanced _

theorem Holding.loaded (h : Holding c [] s) : Holding c [] (applyLoad s) := by
  have loaded (v : Nat) : Holding c [] (loadSeconds v s) := h.timed _ nofun
  unfold applyLoad
  split
  · exact h
  · dsimp only
    split
    · exact ((loaded _).declared _).takeJump _ _ _
    · exact loaded _

theorem Holding.carryBoundary (h : Holding c [] s) : Holding c [] (carryBoundary s) := by
  have finished : Holding c [] (finishAmount (setTs { s.ts with boundaryDue := false } s)) := by
    unfold finishAmount
    split
    · exact (h.timed _ (by exact id)).timed _ (by exact id)
    · exact h.timed _ (by exact id)
  unfold Machine.carryBoundary takeSlewAmount
  dsimp only
  split <;> exact finished.loaded.timed _ (by exact id)

theorem Holding.correct (h : Holding c [] s) (distance : Int) : Holding c [] (correct distance s) := by
  have free := h.timed { s.ts with hold := none } id
  unfold Machine.correct
  dsimp only
  split
  · have moved := (free.advanced distance.toNat).fireAll
      ((((advanceBy distance.toNat (setTs { s.ts with hold := none } s)).sched.armed.map fun a =>
        if a.reached (advanceBy distance.toNat (setTs { s.ts with hold := none } s)).ts.now then
          a.dueCount (advanceBy distance.toNat (setTs { s.ts with hold := none } s)).ts.now.lin else 0).sum + 8))
    split
    · exact moved.carryBoundary
    · exact moved
  · split <;> exact free.timed _ (by exact id)

theorem Holding.enterLocked (h : Holding c [] s) : Holding c [] (enterLocked s) := by
  have work := handedOn_work s { s.disc with state := .locked, holdoverTimer := none, returnState := .free } s.disc.state
  exact h.of_same work.sched work.lines (by rw [enterLocked_ts]; exact id)

theorem Holding.completeAcquisition (h : Holding c [] s) : Holding c [] (completeAcquisition s) := by
  have anchored (phase remaining : Int) : Holding c [] (beginAnchored phase remaining s) := h.timed _ (by exact id)
  unfold Machine.completeAcquisition
  split
  · exact (anchored _ _).enterLocked
  · unfold acquireJump
    dsimp only
    refine ((Holding.declared ?_ _).enterLocked).takeJump _ _ _
    split
    · exact (anchored 0 0).timed _ (by exact id)
    · exact ((anchored 0 0).timed _ (by exact id)).timed _ nofun

theorem Holding.unapplied (h : Holding c [] s) : Holding c [] (unappliedParts s).2 := by
  unfold unappliedParts
  dsimp only
  split
  · exact h
  · exact h.of_same rfl rfl id

theorem Holding.handStep (h : Holding c [] s) (p : Path) (marked : Bool) : Holding c [] (handStep p marked s) := by
  unfold Machine.handStep
  split
  · split
    · split
      · exact h.unapplied.timed _ (by exact id)
      · exact h
    · exact (h.timed _ (by exact id)).correct _
  · split
    · exact h.completeAcquisition
    · exact h
  · exact h
  · exact h

/-- Work of the discipline controller leaves the schedule in order. -/
theorem DisciplineWork.holding (work : DisciplineWork s t) (h : Holding c [] s) : Holding c [] t :=
  h.of_same work.sched work.lines (by rw [work.time]; exact id)

theorem PathWork.holding {p : Path} (work : PathWork p s t) (h : Holding c [] s) : Holding c [] t := by
  obtain ⟨sched, lines, _, timeState, _⟩ := work.frame
  exact h.of_same sched lines (by rw [timeState]; exact id)

/-! ## Requests and events -/

theorem Holding.armWaiting (h : Holding c [] s) (i : Fin 4) : Holding c [] (armWaiting i s) := by
  have all (l : List Entry) (t : State) (h : Holding c l t) :
      Holding c [] (l.foldl (fun t e => Machine.arm (armedAt s.ts.now e) t) t) := by
    induction l generalizing t with
    | nil => exact h
    | cons e l ih => exact ih _ (Holding.arm (a := armedAt s.ts.now e) h)
  have taken : (s.sched.waiting[i] ++ (setWaiting i [] s).sched.entries).Perm s.sched.entries := setWaiting_entries s i []
  refine all _ _ ⟨h.stock.perm taken.symm, h.order, fun j x mem => ?_, fun unset => ?_, h.pulses⟩
  · by_cases own : i = j
    · subst own
      simp at mem
    · have other : (i : Nat) ≠ j := fun same => own (Fin.ext same)
      exact h.waiting j x (by simpa [Vector.getElem_set_ne, other] using mem)
  · exact List.Perm.eq_nil ((show s.sched.entries = [] from h.unset unset) ▸ taken)

/-- A reset of the schedule leaves it empty and no trailing edge pending, whatever stood before (R90, R121). -/
theorem scheduleReset_holding (s : State) : Holding c [] (scheduleReset s) := by
  have none : (scheduleReset s).sched.entries = [] := by
    simp [scheduleReset, emptySchedule, Schedule.entries, Schedule.allWaiting]
  refine ⟨?_, List.Pairwise.nil, fun i e mem => ?_, fun _ => by rw [none]; rfl, fun _ i pending => ?_⟩
  · rw [none]
    exact ⟨by decide, List.nodup_nil, nofun⟩
  · simp [scheduleReset, emptySchedule] at mem
  · simp [scheduleReset, OutLine.scopedReset] at pending

theorem checked_handle {raw : RawDescriptor} {d : Descriptor} (h : raw.checked = some d) : d.handle = raw.handle := by
  unfold RawDescriptor.checked at h
  split at h
  · split at h
    · obtain ⟨start, _, rfl⟩ := Option.map_eq_some_iff.mp h
      rfl
    · cases h
  · cases h

/-- An entry that is to be admitted is in hand (R77 to R80). -/
theorem Holding.newEntry {d : Descriptor} (h : Holding c [] s) (set : s.ts.timeState ≠ .unset)
    (fresh : s.sched.holds d.handle = false) (room : s.sched.entries.length < Config.scheduleCapacity)
    (mode : s.lines[d.line].mode = .scheduled) : Holding c [newEntry d s] (countAdmission s) := by
  have absent : ∀ e ∈ s.sched.entries, e.desc.handle ≠ d.handle := by
    simpa [Schedule.holds] using fresh
  refine ⟨⟨room, ?_, fun e mem => ?_⟩, h.order, h.waiting, fun unset => absurd unset set, h.pulses⟩
  · refine List.nodup_cons.mpr ⟨fun mem => ?_, h.stock.handles⟩
    obtain ⟨e, present, same⟩ := List.mem_map.mp mem
    exact absent e present same
  · rcases List.mem_cons.mp mem with rfl | mem
    · exact mode
    · exact h.stock.lines e mem

/-- The admission of an entry leaves the schedule in order (R81 to R84). -/
theorem Holding.admitted {d : Descriptor} (unchanged : Holding c [] s)
    (h : Holding c [Machine.newEntry d s] (countAdmission s)) : Holding c [] (admitChecked d s).2 := by
  unfold admitChecked
  dsimp only
  split
  · rename_i start
    exact h.joinWaiting ⟨_, _, start⟩
  · split
    · exact Holding.arm (a := { entry := Machine.newEntry d s, due := _, lap := 0 }) h
    · split
      · exact Holding.settle (a := { entry := _, due := _, lap := 0 }) ((h.fireAction true).raised _) _ _
      · split
        · exact unchanged
        · exact (Holding.settle (a := { entry := Machine.newEntry d s, due := _, lap := 0 }) h _ _).raised _

theorem Holding.removed (h : Holding c [] s) (handle : Nat) : Holding c [] (removeEntry handle s) := by
  have entries := removeEntry_entries s handle
  refine ⟨?_, filter_inOrder _ _ h.order, fun i e mem => ?_, fun unset => ?_, h.pulses⟩
  · rw [List.nil_append, entries]
    exact h.stock.sublist List.filter_sublist
  · simp only [removeEntry, Fin.getElem_fin, mapVec_getElem] at mem
    exact h.waiting i e (List.mem_of_mem_filter mem)
  · rw [List.nil_append, entries, show s.sched.entries = [] from h.unset unset]
    rfl

/-- A line that no entry names may change its mode (R118). -/
theorem Holding.configured {i : Fin 8} {o : OutLine} (h : Holding c [] s) (free : lineHeld i s = false)
    (idle : o.trailing = s.lines[i].trailing) : Holding c [] (setLine i o s) := by
  simp only [lineHeld, Bool.or_eq_false_iff] at free
  obtain ⟨untargeted, notPending⟩ := free
  have others : ∀ e ∈ s.sched.entries, e.desc.line ≠ i := by
    simpa [Schedule.targets] using untargeted
  refine ⟨⟨h.stock.capacity, h.stock.handles, fun e mem => ?_⟩, h.order, h.waiting, h.unset, fun asks => ?_⟩
  · have other : (i : Nat) ≠ e.desc.line := fun same => others e mem (Fin.ext same).symm
    have := h.stock.lines e mem
    simpa [Vector.getElem_set_ne, other] using this
  · refine (h.pulses asks).set fun pending => ?_
    rw [idle, notPending] at pending
    cases pending

theorem RequestEffect.holding (h : RequestEffect s t) :
    ReportRequest s t ∨ (Holding c [] s → Holding c [] t) := by
  cases h with
  | reports effect => exact .inl effect
  | unchanged => exact .inr id
  | scheduleReset => exact .inr fun _ => scheduleReset_holding _
  | timescaleReset => exact .inr fun _ => scheduleReset_holding _
  | loadStaged => exact .inr fun ok => ok.timed _ (by exact id)
  | loadCancelled => exact .inr fun ok => ok.timed _ (by exact id)
  | slewAdjusted => exact .inr fun ok => ok.timed _ (by exact id)
  | timeStepped forward n => exact .inr fun ok => ((ok.timed _ (by exact id)).declared _).takeJump _ _ _
  | pathConfigured p c => exact .inr (PathWork.refl.updated _ (by rfl)).holding
  | pathRefreshed p absent => exact .inr (PathWork.refl.updated _ absent.symm).holding
  | pathRestarted p => exact .inr (PathWork.refl.changed _ _).holding
  | pathDisabled p => exact .inr (PathWork.refl.changed _ _).holding
  | disciplineConfigured c => exact .inr ((setDisc_work s _).trans (applyConfig_work _ _)).holding
  | entryAdmitted raw d set fresh room checked mode =>
    exact .inr fun ok => ok.admitted (ok.newEntry set (by rwa [checked_handle checked]) room mode)
  | entryWithdrawn handle e =>
    refine .inr fun ok => ?_
    have removed := ok.removed handle
    unfold reportRemoved
    split
    · exact removed.recorded _
    · exact removed
  | lineConfigured i mode idle allowed =>
    refine .inr fun ok => ?_
    rcases allowed with same | free
    · rw [same]
      exact ok.of_same rfl (by simp) id
    · exact ok.configured free rfl
  | lineDriven i level manual =>
    refine .inr fun ok => ok.of_frame rfl (setLine_modes rfl) id fun _ lines => lines.set fun pending => ?_
    have scheduled := (lines i pending).1
    rw [manual] at scheduled
    cases scheduled
  | captureConfigured => exact .inr fun ok => ok.of_same rfl rfl id

theorem EventEffect.holding (h : EventEffect s t) : LinkEvent s t ∨ (Holding c [] s → Holding c [] t) := by
  cases h with
  | link effect => exact .inl effect
  | boundaryCarried => exact .inr Holding.carryBoundary
  | holdEnded => exact .inr fun ok => ok.timed _ (by exact id)
  | fired a mayFire => exact .inr fun ok => ok.fireOrdinary (mem_firable mayFire).1
  | stepTaken p marked =>
    refine .inr fun ok => ?_
    obtain ⟨u, work, e | ⟨_, e⟩⟩ := takeStep_cases p marked s <;> rw [e]
    · exact work.holding ok
    · exact (work.holding ok).handStep p marked
  | windowExpired p => exact .inr (expireWindow_pathWork p s).holding
  | pathTimedOut p => exact .inr (PathWork.refl.changed _ _).holding
  | holdoverExpired => exact .inr (expireHoldover_work s).holding
  | pulseEnded i => exact .inr fun ok => ok.endPulse i
  | sampled i level =>
    refine .inr fun ok => ?_
    obtain ⟨work, sched⟩ := takeSample_captureWork (markSampled i s) i level
    have marked : Holding c [] (markSampled i s) := ok.of_same rfl rfl id
    rcases sched with same | armed
    · exact marked.of_same same work.lines (by rw [work.ts]; exact id)
    · have waited := armWaiting_captureWork (markSampled i s) i
      exact (marked.armWaiting i).of_same armed (work.lines.trans waited.lines.symm) (by rw [work.ts, waited.ts]; exact id)
  | deadTimeEnded => exact .inr fun ok => ok.of_same rfl rfl id

/-- A tick counts the trailing edges down and leaves the rest of the lines (R116). -/
theorem Holding.ticked (running : s.run = .running) (h : Holding c [] s) : Holding c [] (tick s) := by
  rw [tick_running s running]
  refine Holding.tickTimescale (h.of_frame rfl (fun i => by simp [OutLine.tick]) id fun _ ok i pending => ?_)
  have counted (timer : Option Nat) : (countDown timer).isSome = timer.isSome := by cases timer <;> rfl
  have := ok i
  simpa [OutLine.tick, counted] using this (by simpa [OutLine.tick, counted] using pending)

theorem scheduleOk_reset : ScheduleOk State.reset :=
  ⟨by decide, by decide, List.Pairwise.nil, fun i e mem => by simp [State.reset, Schedule.reset] at mem, fun _ => by decide, nofun⟩

theorem linesOk_reset : LinesOk State.reset := fun i pending => by simp [State.reset, OutLine.reset] at pending

theorem holding_fullReset (cause : StartCause) (inBreak : Bool) (pins : PinSample) :
    Holding c [] (fullReset cause inBreak pins s) :=
  Holding.of_same (holding_nil_iff.mpr ⟨scheduleOk_reset, fun _ => linesOk_reset⟩) rfl rfl fun _ => rfl

theorem holding_invariant (c : Prop) : StepInvariant (Holding c []) where
  same same ok := ok.of_same same.sched same.lines (by rw [same.ts]; exact id)
  reset _ _ _ _ := holding_fullReset _ _ _
  request := RequestEffect.holding
  event := EventEffect.holding
  tick _ := Holding.ticked

/-- Settles O59: the order of the schedule is an invariant of the steps. -/
theorem scheduleStaysInOrder : Obligations.ScheduleStaysInOrder := fun _ _ ok h =>
  (holding_nil_iff.mp ((holding_invariant False).keeps_step (holding_nil_iff.mpr ⟨ok, False.elim⟩) h)).1

/-- Settles O60: the order of the trailing edges is an invariant of the steps, with that of the schedule. -/
theorem pulsesOnlyOnScheduledLines : Obligations.PulsesOnlyOnScheduledLines := fun _ _ ok lines h =>
  (holding_nil_iff.mp ((holding_invariant True).keeps_step (holding_nil_iff.mpr ⟨ok, fun _ => lines⟩) h)).2 trivial

end Schedule

end Sys2Proof.Machine

/-! PROOFS. The steps of the part: what a step is, what is due, that every command answers, and the power and reset commands. -/

namespace Sys2Proof.Machine

/-! ## The part at power-on -/

/-- Settles O1, by the definition of a step. -/
theorem stepTakesTheFrontCommand : Obligations.StepTakesTheFrontCommand := by
  intro s c rest waiting
  unfold step
  rw [waiting]

theorem clockOk_reset : ClockOk State.reset :=
  (timeOk_iff.mp (timeOk_fullReset (s := State.reset) .power false ⟨.low, .low, .low, .low, .low, .low⟩)).1

/-- Settles O52, block by block. -/
theorem resetMeetsWhatAlwaysHolds : Obligations.ResetMeetsWhatAlwaysHolds :=
  ⟨journalOk_reset, linkOk_start _ rfl (.inl ⟨_, rfl⟩) rfl ⟨rfl, rfl⟩, noticeOk_of_quiet (fun k => by cases k <;> rfl), clockOk_reset,
    disciplineOk_fullReset (s := State.reset) .power false ⟨.low, .low, .low, .low, .low, .low⟩,
    ⟨monitorOk_reset, monitorOk_reset⟩, scheduleOk_reset, linesOk_reset⟩

/-! ## Taking requests -/

section Taking

variable {s : State} {r : Request}

theorem any_isDispatched_iff (queue : List OutFrame) :
    queue.any OutFrame.isDispatched = false ↔
      ∀ frame, OutFrame.reply .dispatched frame ∉ queue ∧ OutFrame.reply .partReset frame ∉ queue := by
  rw [List.any_eq_false]
  constructor
  · exact fun none frame => ⟨fun mem => none _ mem rfl, fun mem => none _ mem rfl⟩
  · intro absent f mem
    match f with
    | .reply .dispatched frame => exact absurd mem (absent frame).1
    | .reply .partReset frame => exact absurd mem (absent frame).2
    | .reply .onReceipt _ => simp [OutFrame.isDispatched]
    | .notice => simp [OutFrame.isDispatched]
    | .announce _ => simp [OutFrame.isDispatched]

theorem dispatcherReady_iff :
    dispatcherReady s = true ↔
      s.run = .running ∧ s.link.outbound.any OutFrame.isDispatched = false ∧ s.link.partPending = false := by
  simp only [dispatcherReady, Bool.and_eq_true, decide_eq_true_eq, Bool.not_eq_true', and_assoc]

/-- The dispatcher takes the head of the request queue (R175). -/
theorem headRequest_iff : headRequest s = some r ↔ s.run = .running ∧ TakesNext s r := by
  unfold headRequest TakesNext
  rw [← any_isDispatched_iff]
  by_cases ready : dispatcherReady s = true
  · rw [if_pos ready]
    obtain ⟨running, free, notPending⟩ := dispatcherReady_iff.mp ready
    exact ⟨fun head => ⟨running, head, notPending, free⟩, fun ⟨_, head, _⟩ => head⟩
  · rw [if_neg ready]
    exact ⟨nofun, fun ⟨running, _, notPending, free⟩ => absurd (dispatcherReady_iff.mpr ⟨running, free, notPending⟩) ready⟩

/-- A payload of one byte that names a scope. -/
theorem readScope_iff (scope : ResetScope) (payload : List Byte) :
    readScope payload = some scope ↔ payload = [scope.code] := by
  constructor
  · intro h
    unfold readScope at h
    split at h
    · rename_i length
      obtain ⟨b, rfl⟩ := List.length_eq_one_iff.mp length
      have value : (byteAt 0 [b]) = b.toNat := rfl
      rw [value] at h
      have named : b.toNat = scope.code.toNat := by
        unfold resetScopeOf at h
        split at h <;> cases h <;> assumption
      rw [BitVec.eq_of_toNat_eq named]
    · cases h
  · rintro rfl
    cases scope <;> rfl

/-- The byte of an operation of PATH CONTROL (Table 11.4). -/
def PathOperation.code : PathOperation → Byte
  | .restart => 0#8
  | .enable => 1#8
  | .disable => 2#8

/-- A payload of two bytes that names a path and an operation. -/
theorem readPathControl_iff (op : PathOperation) (payload : List Byte) :
    (∃ p, readPathControl payload = some (p, op)) ↔
      ∃ path : Byte, path.toNat ≤ 1 ∧ payload = [path, op.code] := by
  constructor
  · rintro ⟨p, h⟩
    unfold readPathControl at h
    split at h
    · rename_i length
      obtain ⟨b, c, rfl⟩ := List.length_eq_two.mp length
      simp only [byteAt, List.getD_cons_zero, List.getD_cons_succ, Option.bind_eq_bind, Option.bind_eq_some_iff,
        Option.some.injEq, Prod.mk.injEq] at h
      obtain ⟨q, path, o, named, rfl, rfl⟩ := h
      have operation : c.toNat = o.code.toNat := by
        unfold pathOperationOf at named
        split at named <;> cases named <;> assumption
      refine ⟨b, ?_, by rw [BitVec.eq_of_toNat_eq operation]⟩
      unfold pathOf at path
      split at path <;> first | omega | cases path
    · cases h
  · rintro ⟨path, range, rfl⟩
    have named : ∃ p, pathOf path.toNat = some p := by
      rcases (by omega : path.toNat = 0 ∨ path.toNat = 1) with e | e <;> rw [e]
      · exact ⟨.a, rfl⟩
      · exact ⟨.b, rfl⟩
    obtain ⟨p, named⟩ := named
    refine ⟨p, ?_⟩
    cases op <;> simp [readPathControl, byteAt, named, PathOperation.code, pathOperationOf]

/-- The row of a RESET (R178). -/
theorem resetCommand_iff (payload : List Byte) (c : Instr) :
    resetCommand payload = c ↔
      (c = .resetSchedule ∧ payload ≠ [0x01#8] ∧ payload ≠ [0x02#8] ∧ payload ≠ [0x03#8]) ∨
        (c = .resetJournal ∧ payload = [0x01#8]) ∨ (c = .resetTimescale ∧ payload = [0x02#8]) ∨
        (c = .resetPart ∧ payload = [0x03#8]) := by
  have named := fun scope => readScope_iff scope payload
  unfold resetCommand
  cases read : readScope payload with
  | none =>
    have absent (scope : ResetScope) : payload ≠ [scope.code] := fun e => by
      rw [(named scope).mpr e] at read
      cases read
    have journal := absent .journal
    have timescale := absent .timescale
    have part := absent .part
    simp only [ResetScope.code] at journal timescale part
    simp [journal, timescale, part, eq_comm]
  | some scope =>
    rw [(named scope).mp read]
    cases scope <;> simp [ResetScope.code, eq_comm]

/-- The row of a PATH CONTROL (section 2.7). -/
theorem pathCommand_iff (payload : List Byte) (c : Instr) :
    pathCommand payload = c ↔
      (c = .pathControlRestart ∧
          ∀ path : Byte, path.toNat ≤ 1 → payload ≠ [path, 0x01#8] ∧ payload ≠ [path, 0x02#8]) ∨
        (c = .pathControlEnable ∧ ∃ path : Byte, path.toNat ≤ 1 ∧ payload = [path, 0x01#8]) ∨
        (c = .pathControlDisable ∧ ∃ path : Byte, path.toNat ≤ 1 ∧ payload = [path, 0x02#8]) := by
  have enables := readPathControl_iff .enable payload
  have disables := readPathControl_iff .disable payload
  simp only [PathOperation.code] at enables disables
  have restarts : (∀ path : Byte, path.toNat ≤ 1 → payload ≠ [path, 0x01#8] ∧ payload ≠ [path, 0x02#8]) ↔
      (¬ ∃ p, readPathControl payload = some (p, .enable)) ∧ ¬ ∃ p, readPathControl payload = some (p, .disable) := by
    rw [enables, disables]
    grind
  rw [restarts, ← enables, ← disables]
  unfold pathCommand
  cases readPathControl payload with
  | none => simp [eq_comm]
  | some named =>
    obtain ⟨p, op⟩ := named
    cases op <;> simp [eq_comm]

end Taking

end Sys2Proof.Machine

/-! PROOFS. What is due: the row of each request, and the part's own events. -/

namespace Sys2Proof.Machine

section Due

variable {s : State} {r : Request}

/-- A request is taken under its row (Table 11.2). -/
theorem takenUnder_requestCommand (r : Request) : TakenUnder r (requestCommand r) := by
  have kind_eq {n : Nat} (h : r.kind.toNat = n) (range : n < 256) : r.kind = BitVec.ofNat 8 n := by
    apply BitVec.eq_of_toNat_eq
    rw [h, BitVec.toNat_ofNat, Nat.mod_eq_of_lt range]
  unfold requestCommand
  split
  case h_2 kind =>
    rcases (resetCommand_iff r.payload _).mp rfl with ⟨e, rest⟩ | ⟨e, rest⟩ | ⟨e, rest⟩ | ⟨e, rest⟩ <;> rw [e] <;>
      exact ⟨kind_eq kind (by decide), rest⟩
  case h_9 kind =>
    rcases (pathCommand_iff r.payload _).mp rfl with ⟨e, rest⟩ | ⟨e, rest⟩ | ⟨e, rest⟩ <;> rw [e] <;>
      exact ⟨kind_eq kind (by decide), rest⟩
  case h_23 =>
    simp only [imp_false] at *
    unfold TakenUnder
    omega
  all_goals exact kind_eq ‹_› (by decide)

/-- The row of a request is the only one it is taken under. -/
theorem requestCommand_of_takenUnder {c : Instr} (h : TakenUnder r c) : requestCommand r = c := by
  have kind_toNat {k : Byte} (h : r.kind = k) : r.kind.toNat = k.toNat := by rw [h]
  cases c
  case resetSchedule => simp [requestCommand, h.1, (resetCommand_iff r.payload _).mpr (.inl ⟨rfl, h.2⟩)]
  case resetJournal => simp [requestCommand, h.1, (resetCommand_iff r.payload _).mpr (.inr (.inl ⟨rfl, h.2⟩))]
  case resetTimescale => simp [requestCommand, h.1, (resetCommand_iff r.payload _).mpr (.inr (.inr (.inl ⟨rfl, h.2⟩)))]
  case resetPart => simp [requestCommand, h.1, (resetCommand_iff r.payload _).mpr (.inr (.inr (.inr ⟨rfl, h.2⟩)))]
  case pathControlRestart => simp [requestCommand, h.1, (pathCommand_iff r.payload _).mpr (.inl ⟨rfl, h.2⟩)]
  case pathControlEnable => simp [requestCommand, h.1, (pathCommand_iff r.payload _).mpr (.inr (.inl ⟨rfl, h.2⟩))]
  case pathControlDisable => simp [requestCommand, h.1, (pathCommand_iff r.payload _).mpr (.inr (.inr ⟨rfl, h.2⟩))]
  case unknownKind =>
    unfold requestCommand
    simp only [TakenUnder] at h
    split <;> first | omega | rfl
  all_goals first | exact False.elim h | simp [requestCommand, show r.kind = _ from h]

theorem requestCommand_iff {c : Instr} : c = requestCommand r ↔ TakenUnder r c :=
  ⟨fun e => e ▸ takenUnder_requestCommand r, fun h => (requestCommand_of_takenUnder h).symm⟩

/-- An entry may be fired exactly if it is reached with no reached one of its line ahead (R92). -/
theorem mem_state_firable {a : ArmedEntry} :
    a ∈ s.firable ↔ ∃ ahead behind, s.sched.armed = ahead ++ a :: behind ∧ a.reached s.ts.now = true ∧
      ∀ b ∈ ahead, b.reached s.ts.now = true → b.entry.desc.line ≠ a.entry.desc.line := by
  rw [State.firable, mem_firable_iff]
  simp

theorem watches_iff (st : PathState) : st.watches = true ↔ st = .qualifying ∨ st = .good ∨ st = .suspect := by
  cases st <;> decide

theorem holdoverDue_iff (d : Discipline) :
    holdoverDue d = true ↔ ∃ count, d.holdoverTimer = some count ∧ d.config.holdoverLimit ≠ 0 ∧
      d.config.holdoverLimit * 125000000 ≤ count := by
  unfold holdoverDue
  cases d.holdoverTimer with
  | none => simp
  | some count =>
    rw [Bool.and_eq_true, decide_eq_true_iff, decide_eq_true_iff]
    exact ⟨fun ⟨limited, reached⟩ => ⟨count, rfl, limited, reached⟩, fun ⟨_, same, limited, reached⟩ =>
      ⟨limited, Option.some.inj same ▸ reached⟩⟩

theorem canBegin_iff (l : Link) : canBegin l = true ↔ l.tx = none ∧ l.inBreak = false ∧ l.outbound ≠ [] := by
  simp [canBegin, and_assoc]

/-- What is due in a part that runs, with the rows of the requests by Table 11.2. -/
theorem mem_due_running (running : s.run = .running) (c : Instr) :
    c ∈ due s ↔
      (s.ts.boundaryDue = true ∧ c = .secondBoundary) ∨ (s.ts.hold = some 0 ∧ c = .anchorHoldEnd) ∨
        (∃ a ∈ s.firable, c = .firing a.handle) ∨
        (∃ p, (s.mon p).state.watches = true ∧ (s.mon p).window = some 0 ∧ c = .stepWindowExpiry p) ∨
        (∃ p, (s.mon p).state = .qualifying ∧ (s.mon p).silence = some 0 ∧ c = .silenceTimerExpiry p) ∨
        (∃ p, (s.mon p).state = .failed ∧ (s.mon p).holdOff = some 0 ∧ c = .holdOffTimerExpiry p) ∨
        (holdoverDue s.disc = true ∧ c = .holdoverTimerExpiry) ∨
        (∃ i : Fin 8, s.lines[i].trailing = some 0 ∧ c = .trailingEdgeExpiry i) ∨
        (∃ i : Fin 4, s.caps[i].timer = some 0 ∧ c = .deadTimeExpiry i) ∨
        (∃ r, TakesNext s r ∧ TakenUnder r c) ∨ (canBegin s.link = true ∧ c = .frameTransmitStart) := by
  rw [mem_due s running]
  simp only [mem_pathDue, exists_or, windowDue, silenceDue, holdOffDue, holdDue, trailingDue, deadTimeDue,
    Bool.and_eq_true, decide_eq_true_eq, headRequest_iff, running, true_and, requestCommand_iff, or_assoc, and_assoc]

/-- The part's own events, row by row (section 0.3, R175). -/
theorem mem_due_iff (c : Instr) : c ∈ due s ↔ s.run = .running ∧ OwnEventDue s c := by
  by_cases running : s.run = .running
  · rw [mem_due_running running, and_iff_right running]
    cases c
    case firing h =>
      have handled : (∃ a ∈ s.firable, Instr.firing h = .firing a.handle) ↔ OwnEventDue s (.firing h) := by
        simp only [mem_state_firable, OwnEventDue, Instr.firing.injEq, ArmedEntry.handle]
        grind
      simpa [TakenUnder] using handled
    case stepWindowExpiry p => simp [OwnEventDue, TakenUnder, watches_iff]
    case holdoverTimerExpiry => simp [OwnEventDue, TakenUnder, holdoverDue_iff]
    case frameTransmitStart => simp [OwnEventDue, TakenUnder, canBegin_iff]
    all_goals simp [OwnEventDue, TakenUnder]
  · simp [due_stopped s running, running]

theorem firing_mem_due_iff (h : Nat) : Instr.firing h ∈ due s ↔ s.run = .running ∧ (firableEntry h s).isSome = true := by
  rw [mem_due_iff]
  refine and_congr_right fun _ => ?_
  rw [firableEntry, List.find?_isSome]
  simp only [mem_state_firable, OwnEventDue, ArmedEntry.handle, beq_iff_eq]
  grind

/-- Settles O2: a step with nothing waiting, by the number of events that are due, and what is due. -/
theorem stepWithNothingWaiting : Obligations.StepWithNothingWaiting := by
  intro s
  refine ⟨fun empty => ?_, mem_due_iff, firing_mem_due_iff, fun _ => headRequest_iff⟩
  have idles : step s = .next (idle s) := by
    unfold step
    rw [empty]
  rw [idles]
  unfold idle
  refine ⟨fun none => by rw [none], fun c one => ?_, fun c d more several => ?_⟩
  · rw [one]
    rfl
  · rw [several]
    exact ⟨_, pick_mem s c (d :: more), rfl⟩

end Due

end Sys2Proof.Machine

/-! PROOFS. Commands: each answers a next state and leaves the waiting commands, and what the power and reset commands do. -/

namespace Sys2Proof.Machine

section Commands

variable {s t : State}

/-! ## What link events leave -/

/-- `t` comes from `s` by work that leaves the waiting commands and the levels at the pins. -/
structure Still (s t : State) : Prop where
  pending : t.pending = s.pending
  shown : t.shown = s.shown

namespace Still

theorem refl (s : State) : Still s s := ⟨rfl, rfl⟩

theorem trans {s t u : State} (h : Still s t) (k : Still t u) : Still s u :=
  ⟨k.pending.trans h.pending, k.shown.trans h.shown⟩

end Still

theorem judgeNotice_still (s : State) : Still s (judgeNotice s) := by
  rcases judgeNotice_cases s with e | ⟨_, _, e⟩ <;> rw [e]
  · exact .refl s
  · exact ⟨rfl, rfl⟩

theorem loseFrame_still (cause : LinkError) (s : State) : Still s (loseFrame cause s) := by
  unfold loseFrame
  exact ⟨by simp, by simp⟩

theorem replyOnReceipt_still (frame : List Byte) (s : State) : Still s (replyOnReceipt frame s) := by
  unfold replyOnReceipt
  split
  · exact ⟨rfl, rfl⟩
  · exact loseFrame_still _ s

theorem acceptFrame_still (r : Request) (s : State) : Still s (acceptFrame r s) := by
  unfold acceptFrame
  split
  · exact .refl s
  · split
    · exact .refl s
    · split
      · exact replyOnReceipt_still _ s
      · split
        · exact replyOnReceipt_still _ s
        · split
          · exact ⟨rfl, rfl⟩
          · exact loseFrame_still _ s

theorem toHunt_still (s : State) : Still s (toHunt s) := ⟨rfl, rfl⟩

theorem receive_still (b : Byte) (s : State) : Still s (receive b s) := by
  unfold receive
  split
  · split
    · exact ⟨rfl, rfl⟩
    · exact .refl s
  · split
    · exact ⟨rfl, rfl⟩
    · exact (toHunt_still s).trans (loseFrame_still _ _)
  · dsimp only
    split
    · exact ⟨rfl, rfl⟩
    · unfold checkFrame
      split
      · exact (toHunt_still s).trans (acceptFrame_still _ _)
      · exact (toHunt_still s).trans (loseFrame_still _ _)
  · exact .refl s

theorem beginOwn_still (rest : List OutFrame) (kind : Byte) (payload : List Byte) (s : State) :
    Still s (beginOwn rest kind payload s) := ⟨rfl, rfl⟩

theorem notifyRaised_still (s : State) : Still s (notifyRaised s) := ⟨rfl, rfl⟩

theorem beginHead_still (s : State) : Still s (beginHead s) := by
  unfold beginHead
  split
  · exact .refl s
  · exact ⟨rfl, rfl⟩
  · exact ((notifyRaised_still s).trans (beginOwn_still _ _ _ _)).trans (judgeNotice_still _)
  · exact (beginOwn_still _ _ _ s).trans (judgeNotice_still _)

/-- An event of the link completes a PART reset, or leaves the waiting commands and the pins. -/
theorem LinkEvent.still (h : LinkEvent s t) :
    (∃ cause inBreak pins, t = fullReset cause inBreak pins s) ∨ Still s t := by
  cases h with
  | byteReceived b => exact .inr (receive_still b s)
  | frameAbandoned => exact .inr ((toHunt_still s).trans (loseFrame_still _ _))
  | brokenWhilePending pins =>
    unfold breakWhilePending
    split
    · exact .inr ⟨rfl, rfl⟩
    · exact .inl ⟨_, _, _, rfl⟩
  | linkReset => exact .inr ⟨rfl, rfl⟩
  | breakEnded => exact .inr ⟨rfl, rfl⟩
  | frameBegan => exact .inr (beginHead_still s)
  | frameEnded pins =>
    unfold endFrame
    split
    · exact .inl ⟨_, _, _, rfl⟩
    · have idle : Still s (idleTransmitter s) := ⟨rfl, rfl⟩
      dsimp only
      split
      · exact .inr (idle.trans (beginHead_still _))
      · exact .inr idle
  | frameStopped pins =>
    unfold stopTransmitter
    split
    · exact .inl ⟨_, _, _, rfl⟩
    · exact .inr ⟨rfl, rfl⟩

theorem LinkKept.still (h : LinkKept s t) : Still s t := ⟨h.pending, h.shown⟩

/-- A command leaves the waiting commands; it leaves the pins, or puts the lines at their values after a reset. -/
theorem CommandEffect.still (h : CommandEffect s t) :
    t.pending = s.pending ∧ (t.shown = s.shown ∨ (t.shown = State.reset.shown ∧ t.lines = State.reset.lines)) := by
  have quiet {t : State} (still : Still s t) :
      t.pending = s.pending ∧ (t.shown = s.shown ∨ (t.shown = State.reset.shown ∧ t.lines = State.reset.lines)) :=
    ⟨still.pending, .inl still.shown⟩
  cases h with
  | unchanged => exact quiet (.refl s)
  | poweredOn pins => exact ⟨rfl, .inr ⟨rfl, rfl⟩⟩
  | heldInReset => exact ⟨rfl, .inr ⟨rfl, rfl⟩⟩
  | released pins => exact ⟨rfl, .inr ⟨rfl, rfl⟩⟩
  | poweredOff => exact quiet ⟨rfl, rfl⟩
  | answered r rep u head effect =>
    have kept := effect.linkKept.still
    exact quiet ⟨kept.pending, kept.shown⟩
  | woundDown r rep => exact quiet ⟨rfl, rfl⟩
  | event u running effect =>
    rcases effect.innerWork with work | link
    · exact quiet work.still
    · rcases link.still with ⟨_, _, _, rfl⟩ | still
      · exact ⟨rfl, .inr ⟨rfl, rfl⟩⟩
      · exact quiet still

/-! ## Every command answers -/

theorem take_next (accepts : Request → Bool) (owner : Request → State → Reply × State) (s : State) :
    ∃ t, take accepts owner s = .next t := by
  rcases take_cases s accepts owner with e | ⟨_, _, _, e⟩ <;> exact ⟨_, e⟩

theorem event_next (happens : Bool) (effect : State → State) (s : State) : ∃ t, event happens effect s = .next t := by
  rcases event_cases s happens effect with e | ⟨_, _, e⟩ <;> exact ⟨_, e⟩

theorem resetPart_next (s : State) : ∃ t, exec .resetPart s = .next t := by
  show ∃ t, execResetPart s = .next t
  unfold execResetPart
  split
  · exact ⟨_, rfl⟩
  · split
    · split <;> exact ⟨_, rfl⟩
    · exact ⟨_, rfl⟩

/-- No command stops the part. -/
theorem exec_next (c : Instr) (s : State) : ∃ t, exec c s = .next t := by
  cases c
  case powerOn | powerOff => exact ⟨_, rfl⟩
  case resetNLow =>
    show ∃ t, execResetNLow s = .next t
    unfold execResetNLow
    split <;> exact ⟨_, rfl⟩
  case resetNRelease =>
    show ∃ t, execResetNRelease _ s = .next t
    unfold execResetNRelease
    split <;> exact ⟨_, rfl⟩
  case resetPart => exact resetPart_next s
  case firing handle =>
    show ∃ t, execFiring handle s = .next t
    unfold execFiring
    split
    · exact event_next _ _ s
    · exact ⟨_, rfl⟩
  case gapLimitExpiry => exact event_next _ (fun t => loseFrame .truncated (toHunt t)) s
  case linkBreak pins =>
    exact event_next _ (fun t => if t.link.partPending then breakWhilePending pins t else linkReset t) s
  case captureEdge i level => exact event_next _ (fun t => takeSample i level (markSampled i t)) s
  all_goals first | exact take_next _ _ s | exact event_next _ _ s

theorem headRequest_stopped (stopped : s.run ≠ .running) : headRequest s = none := by
  unfold headRequest
  rw [if_neg fun ready => stopped (dispatcherReady_iff.mp ready).1]

theorem take_stopped (stopped : s.run ≠ .running) (accepts : Request → Bool) (owner : Request → State → Reply × State) :
    take accepts owner s = .next s := by
  unfold take
  rw [headRequest_stopped stopped]

theorem event_stopped (stopped : s.run ≠ .running) (happens : Bool) (effect : State → State) :
    event happens effect s = .next s := by
  unfold event
  rw [if_neg fun happens => stopped happens.1]

/-- In a part that does not run, only the power and RESET_N commands do anything (log entry 5). -/
theorem exec_stopped (c : Instr) (stopped : s.run ≠ .running) (notOn : ∀ pins, c ≠ .powerOn pins)
    (notLow : c ≠ .resetNLow) (notRelease : ∀ pins, c ≠ .resetNRelease pins) (notOff : c ≠ .powerOff) :
    exec c s = .next s := by
  cases c
  case powerOn pins => exact absurd rfl (notOn pins)
  case powerOff => exact absurd rfl notOff
  case resetNLow => exact absurd rfl notLow
  case resetNRelease pins => exact absurd rfl (notRelease pins)
  case resetPart =>
    show execResetPart s = .next s
    unfold execResetPart
    rw [headRequest_stopped stopped]
  case firing handle =>
    show execFiring handle s = .next s
    unfold execFiring
    split
    · exact event_stopped stopped _ _
    · rfl
  case gapLimitExpiry => exact event_stopped stopped _ (fun t => loseFrame .truncated (toHunt t))
  case linkBreak pins =>
    exact event_stopped stopped _ (fun t => if t.link.partPending then breakWhilePending pins t else linkReset t)
  case captureEdge i level => exact event_stopped stopped _ (fun t => takeSample i level (markSampled i t))
  all_goals first | exact take_stopped stopped _ _ | exact event_stopped stopped _ _

/-- Settles O3: every arm of the dispatch answers, and what it does leaves the waiting commands. -/
theorem everyCommandAnswersANextState : Obligations.EveryCommandAnswersANextState := by
  refine ⟨fun c s => ?_, fun c s stopped => exec_stopped c stopped⟩
  obtain ⟨t, e⟩ := exec_next c s
  exact ⟨t, e, (exec_effect e).still.1⟩

/-! ## Power and resets -/

theorem fullReset_atPowerOn (cause : StartCause) (inBreak : Bool) (pins : PinSample) (s : State) :
    AtPowerOn pins (fullReset cause inBreak pins s) where
  time := ⟨rfl, rfl, rfl, rfl, rfl, rfl, rfl, rfl⟩
  paths p := by cases p <;> exact ⟨rfl, rfl, rfl, rfl, rfl, rfl, rfl, rfl, rfl, rfl, rfl, rfl, rfl, rfl, rfl⟩
  discipline := ⟨rfl, rfl, rfl, rfl, rfl, rfl⟩
  schedule := ⟨rfl, rfl⟩
  lines i := by
    show (Vector.replicate 8 OutLine.reset)[i] = _
    simp [OutLine.reset]
  captures := rfl
  journal := rfl
  attention := ⟨fun k => by cases k <;> rfl, fun k => by cases k <;> rfl⟩

theorem fullReset_restarted (cause : StartCause) (inBreak : Bool) (pins : PinSample) (s : State) :
    Restarted cause cause.announce inBreak pins s (fullReset cause inBreak pins s) :=
  ⟨rfl, fullReset_atPowerOn cause inBreak pins s, rfl, rfl, rfl⟩

theorem holdInReset_atPowerOn (s : State) : AtPowerOn ⟨.low, .low, .low, .low, .low, .low⟩ (holdInReset s) :=
  have reset := fullReset_atPowerOn .pin false ⟨.low, .low, .low, .low, .low, .low⟩ s
  ⟨reset.time, reset.paths, reset.discipline, reset.schedule, reset.lines, rfl, reset.journal, reset.attention⟩

/-- Settles O4, command by command. -/
theorem powerAndResetPin : Obligations.PowerAndResetPin := by
  refine ⟨fun pins s => ⟨_, rfl, fullReset_restarted .power false pins s⟩, fun s supplied => ?_, fun s off => ?_,
    fun pins s held => ?_, fun pins s free => ?_, fun s => rfl⟩
  · exact ⟨holdInReset s, if_neg supplied, rfl, holdInReset_atPowerOn s, rfl, rfl, rfl, rfl, rfl, rfl, rfl⟩
  · exact if_pos off
  · exact ⟨_, if_pos held, fullReset_restarted .pin false pins s⟩
  · exact if_neg free

theorem sendingPartReply_of_sending {frame : List Byte} {stopping : Bool} {l : Link}
    (sending : l.tx = some ⟨frame, true, stopping⟩) : sendingPartReply l = true := by
  rw [sendingPartReply, sending]

theorem isSending_of_sending {frame : List Byte} {part stopping : Bool} {l : Link}
    (sending : l.tx = some ⟨frame, part, stopping⟩) : isSending stopping l = true := by
  rw [isSending, sending]
  exact beq_self_eq_true stopping

/-- A break in a part that runs with PART pending (R182). -/
theorem linkBreak_pending (pins : PinSample) (running : s.run = .running) (pending : s.link.partPending = true)
    (first : s.link.inBreak = false) : exec (.linkBreak pins) s = .next (breakWhilePending pins s) := by
  have := event_of s (!s.link.inBreak) (fun t => if t.link.partPending then breakWhilePending pins t else linkReset t)
    running (by rw [first]; rfl)
  rwa [if_pos pending] at this

/-- Settles O5: each of the three ends of the wait for the reply. -/
theorem partResetCompletes : Obligations.PartResetCompletes := by
  intro pins s running
  refine ⟨fun frame sending => ?_, fun frame sending => ?_, fun pending first idle => ?_,
    fun pending first frame stopping sending => ?_⟩
  · refine ⟨_, event_of s _ _ running (isSending_of_sending sending), ?_⟩
    rw [endFrame, if_pos (sendingPartReply_of_sending sending)]
    exact fullReset_restarted _ _ pins s
  · refine ⟨_, event_of s _ _ running (isSending_of_sending sending), ?_⟩
    rw [stopTransmitter, if_pos (sendingPartReply_of_sending sending)]
    exact fullReset_restarted _ _ pins s
  · refine ⟨_, linkBreak_pending pins running pending first, ?_⟩
    rw [breakWhilePending, if_neg (by rw [idle]; decide)]
    exact fullReset_restarted _ _ pins s
  · rw [linkBreak_pending pins running pending first, breakWhilePending,
      if_pos (sendingPartReply_of_sending sending), sending]
    rfl

/-! ## The output pins -/

/-- Settles O20: what a pin presents, and that only a tick and a full reset move the settled levels. -/
theorem outputPinsPresentTheSettledLevel : Obligations.OutputPinsPresentTheSettledLevel := by
  refine ⟨fun s i => ⟨fun off => ?_, fun running driven => ⟨fun empty none => ?_, fun busy => ?_⟩⟩,
    fun s running i => tick_shown s running i, fun c s t e => ?_⟩
  · exact if_neg fun ⟨running, driven⟩ => off.elim (· running) driven
  · rw [outPin, if_pos ⟨running, driven⟩, instantOver, empty, none]
    rfl
  · have waits : instantOver s = false := by
      rw [instantOver, Bool.and_eq_false_iff]
      exact busy.imp (by simp) (by simp)
    rw [outPin, if_pos ⟨running, driven⟩, waits]
    rfl
  · refine (exec_effect e).still.2.imp_right fun ⟨shown, lines⟩ i => ?_
    rw [shown, lines]
    exact ⟨by simp [State.reset], by simp [State.reset, OutLine.reset]⟩

end Commands

end Sys2Proof.Machine

/-! PROOFS. Records and raises: what they leave behind, and the events that come down to them (the charge of a fault, a change
of path, the timers of the reference, the estimate). -/

namespace Sys2Proof.Machine

section Records

variable (s : State)

/-! ## Records -/

/-- A record reaches the journal with the current era and time (R138, R141, R142). -/
theorem appendRecord_journal (body : RecordBody) :
    (appendRecord body s).journal = journalAfter s.ts.era s.ts.now body s.journal := by
  unfold journalAfter
  rcases appendRecord_cases s body with ⟨room, e⟩ | ⟨full, e⟩ <;> rw [e]
  · rw [if_pos room, storeRecord_journal]
  · rw [if_neg (Nat.not_lt.mpr full), missRecord_journal]
    rfl

theorem appendRecord_subscribed (body : RecordBody) : (appendRecord body s).attn.subscribed = s.attn.subscribed := by
  rcases appendRecord_cases s body with ⟨_, e⟩ | ⟨_, e⟩ <;> rw [e]
  · exact storeRecord_subscribed s body
  · unfold missRecord
    dsimp only
    split
    · rfl
    · exact raise_subscribed _ _

/-- A record leaves everything but the journal, the attention unit and the outbound queue. -/
theorem appendRecord_eq (body : RecordBody) :
    appendRecord body s =
      { s with
        journal := (appendRecord body s).journal
        attn := (appendRecord body s).attn
        link := { s.link with outbound := queueAfterRecord s } } := by
  rw [← appendRecord_link s body]
  rcases appendRecord_cases s body with ⟨_, e⟩ | ⟨_, e⟩ <;> rw [e]
  · unfold storeRecord
    dsimp only
    split
    · rw [raise_eq]
    · rfl
  · unfold missRecord
    dsimp only
    split
    · rfl
    · rw [raise_eq]

/-- Settles O48: the laws of a record, and the raise of JOURNAL_LEVEL at the threshold. -/
theorem recordIsStoredOrMissed : Obligations.RecordIsStoredOrMissed := by
  intro s body
  refine ⟨appendRecord_journal s body, appendRecord_eq s body, appendRecord_subscribed s body,
    fun k notLevel notOverrun => appendRecord_stateOf s body k notLevel notOverrun, fun room => ?_⟩
  have stored : appendRecord body s = storeRecord body s := if_pos room
  rw [stored]
  refine ⟨storeRecord_stateOf_other s body nofun, ?_⟩
  by_cases level : s.journal.records.length + 1 = s.journal.threshold
  · rw [storeRecord_at_threshold s body level, raise_stateOf]
    simp [level, withRecord]
  · rw [storeRecord_off_threshold s body level, if_neg fun reached => level reached.1]
    rfl

/-! ## Raises -/

theorem attnLow_iff : attnLow s = true ↔
    s.run = .running ∧ ∃ k, s.attn.isSubscribed k = true ∧
      (s.attn.stateOf k = .raised ∨ s.attn.stateOf k = .notified) := by
  have outstanding (st : AttnState) : st ≠ .quiet ↔ st = .raised ∨ st = .notified := by cases st <;> decide
  rw [attnLow, Bool.and_eq_true, decide_eq_true_eq, any_kind]
  refine and_congr_right fun _ => exists_congr fun k => ?_
  simp only [zipVec_getElem, Fin.getElem_fin, Bool.and_eq_true, decide_eq_true_eq, outstanding]
  rfl

/-- Settles O51: the pin by the kinds one by one, and the raise by its cases. -/
theorem raisingAKind : Obligations.RaisingAKind := by
  refine ⟨attnLow_iff, fun s k => ⟨fun busy => if_neg busy, fun quiet => ⟨fun silent => ?_, fun subscribed free => ?_⟩⟩⟩
  · rcases raise_cases s k with ⟨busy, _⟩ | ⟨_, _, e⟩ | ⟨_, subscribed, e⟩
    · exact absurd quiet busy
    · exact e
    · rw [e]
      have taken := silent.resolve_left (by rw [subscribed]; nofun)
      have kept : judgeNotice (setKind k .raised s) = setKind k .raised s :=
        if_neg (by rw [show noticePlaceFree (setKind k .raised s).link = false from taken, Bool.and_false]; nofun)
      exact kept
  · rcases raise_cases s k with ⟨busy, _⟩ | ⟨_, unsubscribed, _⟩ | ⟨_, _, e⟩
    · exact absurd quiet busy
    · rw [subscribed] at unsubscribed
      cases unsubscribed
    · rw [e]
      have some : (setKind k .raised s).attn.toNotify.any id = true :=
        (toNotify_any _).mpr ⟨k, subscribed, by simp [stateOf_setKind]⟩
      exact if_pos (by rw [some, show noticePlaceFree (setKind k .raised s).link = true from free]; rfl)

/-! ## Handing on a change -/

theorem raise_journal_of_append (k : AttnKind) (body : RecordBody) :
    (raise k (appendRecord body s)).journal = journalAfter s.ts.era s.ts.now body s.journal := by
  rw [raise_journal, appendRecord_journal]

@[simp] theorem handOnDiscipline_journal (old : DiscState) :
    (handOnDiscipline old s).journal =
      journalAfter s.ts.era s.ts.now (.discipline old s.disc.state s.disc.selected) s.journal :=
  raise_journal_of_append s _ _

@[simp] theorem handOnDiscipline_lines (old : DiscState) : (handOnDiscipline old s).lines = s.lines := by
  simp [handOnDiscipline]

/-- A raise that follows a record sees the kind as it was, and the queue after the record (R148, R154). -/
theorem raise_append_link (k : AttnKind) (body : RecordBody) (notLevel : k ≠ .journalLevel) (notOverrun : k ≠ .journalOverrun) :
    (raise k (appendRecord body s)).link =
      { s.link with outbound := queueAfterRaise k s.attn (queueAfterRecord s) } := by
  have state := appendRecord_stateOf s body k notLevel notOverrun
  have subscribed : (appendRecord body s).attn.isSubscribed k = s.attn.isSubscribed k := by
    rw [Attention.isSubscribed, appendRecord_subscribed]
    rfl
  rw [raise_link, appendRecord_link, queueAfterRaise, queueAfterRaise, state, subscribed]

theorem handOnDiscipline_link (old : DiscState) :
    (handOnDiscipline old s).link =
      { s.link with outbound := queueAfterRaise .discipline s.attn (queueAfterRecord s) } :=
  raise_append_link s _ _ nofun nofun

/-! ## Charging a fault -/

theorem charge_of_same {p : Path} {k : FaultKind} (same : ((s.mon p).charged k s.ts.now).state = (s.mon p).state) :
    charge p k s = setMon p ((s.mon p).charged k s.ts.now) s := by
  rw [charge_eq, if_pos same]

theorem charge_of_changed {p : Path} {k : FaultKind} (changed : ((s.mon p).charged k s.ts.now).state ≠ (s.mon p).state) :
    charge p k s = changePath p ((s.mon p).charged k s.ts.now) (some k) s := by
  rw [charge_eq, if_neg changed]

/-- Settles O44: the cases of a charge, by the path state and the fault limit. -/
theorem chargingAFault : Obligations.ChargingAFault := by
  refine ⟨fun totals => ⟨rfl, rfl, rfl, rfl, rfl, rfl⟩, fun s p k => ?_⟩
  refine ⟨fun state => ?_, fun state => ⟨fun limit => ?_, fun limit => ?_⟩,
    fun state => ⟨fun limit => ?_, fun limit => ?_⟩, fun idle => ?_⟩
  · have charged : (s.mon p).charged k s.ts.now = { (s.mon p).withFault k s.ts.now with cleanCount := 0 } := by
      simp [Monitor.charged, state]
    rw [charge_of_same s (by rw [charged]; rfl), charged]
    rfl
  · have charged : (s.mon p).charged k s.ts.now =
        { (s.mon p).withFault k s.ts.now with state := .suspect, suspectCount := 1, cleanCount := 0 } := by
      simp [Monitor.charged, state, Nat.not_le.mpr limit]
    rw [charge_of_changed s (by rw [charged, state]; nofun), charged, changePath, state]
    rfl
  · have charged : (s.mon p).charged k s.ts.now = ((s.mon p).withFault k s.ts.now).toFailed := by
      simp [Monitor.charged, state, limit]
    rw [charge_of_changed s (by rw [charged, state]; nofun), charged, changePath, state]
    rfl
  · have charged : (s.mon p).charged k s.ts.now =
        { (s.mon p).withFault k s.ts.now with suspectCount := (s.mon p).suspectCount + 1, cleanCount := 0 } := by
      simp [Monitor.charged, state, Nat.not_le.mpr limit]
    rw [charge_of_same s (by rw [charged]; rfl), charged]
    rfl
  · have charged : (s.mon p).charged k s.ts.now = ((s.mon p).withFault k s.ts.now).toFailed := by
      simp [Monitor.charged, state, limit]
    rw [charge_of_changed s (by rw [charged, state]; nofun), charged, changePath, state]
    rfl
  · rcases (s.mon p).charged_cases k s.ts.now with ⟨_, e⟩ | ⟨state, _⟩ | ⟨state, _⟩ | ⟨state, _⟩ | ⟨state | state, _⟩
    · rw [charge_of_same s (by rw [e]), e, setMon_self]
    · rw [state] at idle; cases idle
    · rw [state] at idle; cases idle
    · rw [state] at idle; cases idle
    · rw [state.1] at idle; cases idle
    · rw [state.1] at idle; cases idle

/-! ## The events of the timers of the reference -/

/-- The monitor with one more step counted (R32). -/
def Monitor.stepCounted (m : Monitor) : Monitor := { m with stepsSinceMark := m.stepsSinceMark + 1 }

theorem countStep_within {p : Path} (within : (s.mon p).stepsSinceMark < (s.mon p).config.stepsPerSecond) :
    countStep p s = setMon p (s.mon p).stepCounted s :=
  if_neg (Nat.not_lt.mpr within)

/-- A step too many is charged as MISSING_MARK, and unless the path has failed a new count begins (R32). -/
theorem countStep_beyond {p : Path} (beyond : (s.mon p).config.stepsPerSecond ≤ (s.mon p).stepsSinceMark) :
    countStep p s =
      if hasFailed p (charge p .missingMark (setMon p (s.mon p).stepCounted s)) then
        charge p .missingMark (setMon p (s.mon p).stepCounted s)
      else
        setMon p
          { (charge p .missingMark (setMon p (s.mon p).stepCounted s)).mon p with
            stepsSinceMark := 1, previousMark := none }
          (charge p .missingMark (setMon p (s.mon p).stepCounted s)) :=
  if_pos (Nat.lt_succ_of_le beyond)

/-- The monitor whose window expiry stands in for the step (R31). -/
def Monitor.stoodIn (m : Monitor) : Monitor :=
  { m with
    refInstant := m.refInstant.map fun ref => ref + m.config.period
    window := some m.config.windowTicks }

theorem expireWindow_of_standing {p : Path} (standing : ((charge p .missingStep s).mon p).state ≠ .failed) :
    expireWindow p s =
      countStep p (setMon p ((charge p .missingStep s).mon p).stoodIn (charge p .missingStep s)) :=
  if_neg fun failed => standing (of_decide_eq_true failed)

/-- Settles O42: the charge, and then the count of the step that the expiry stands in for. -/
theorem windowExpiryStandsInForTheStep : Obligations.WindowExpiryStandsInForTheStep := by
  intro s p running watches expired
  have taken : exec (.stepWindowExpiry p) s = .next (expireWindow p s) :=
    event_of s _ _ running (by rw [windowDue, watches, expired]; rfl)
  refine ⟨fun failed => ?_, fun stands within => ?_, fun stands beyond => ⟨fun failed => ?_, fun goesOn => ?_⟩⟩ <;>
    rw [taken]
  · exact congrArg _ (if_pos (decide_eq_true failed))
  · rw [expireWindow_of_standing s stands, countStep_within _ (by rw [setMon_mon]; exact within), setMon_mon, setMon_setMon]
    rfl
  · rw [expireWindow_of_standing s stands, countStep_beyond _ (by rw [setMon_mon]; exact beyond), setMon_mon, setMon_setMon]
    exact congrArg _ (if_pos (decide_eq_true failed))
  · rw [expireWindow_of_standing s stands, countStep_beyond _ (by rw [setMon_mon]; exact beyond), setMon_mon, setMon_setMon]
    exact congrArg _ (if_neg fun failed => goesOn (of_decide_eq_true failed))

/-- Settles O43, timer by timer. -/
theorem timersOfTheReferenceExpire : Obligations.TimersOfTheReferenceExpire := by
  refine ⟨fun s p running => ⟨fun state expired => ?_, fun state expired => ?_⟩,
    fun s count running timer limited reached => ⟨fun state => ?_, fun state => ?_⟩⟩
  · have taken : exec (.silenceTimerExpiry p) s = .next (changePath p ((s.mon p).cleared .absent) none s) :=
      event_of s _ _ running (by simp [silenceDue, state, expired])
    rw [taken, changePath, state]
    rfl
  · have taken : exec (.holdOffTimerExpiry p) s = .next (changePath p ((s.mon p).cleared .absent) none s) :=
      event_of s _ _ running (by simp [holdOffDue, state, expired])
    rw [taken, changePath, state]
    rfl
  · have taken : exec .holdoverTimerExpiry s = .next (expireHoldover s) :=
      event_of s _ _ running ((holdoverDue_iff _).mpr ⟨count, timer, limited, reached⟩)
    rw [taken, expireHoldover, state]
  · have taken : exec .holdoverTimerExpiry s = .next (expireHoldover s) :=
      event_of s _ _ running ((holdoverDue_iff _).mpr ⟨count, timer, limited, reached⟩)
    have fell : expireHoldover s = handOnDiscipline .holdover
        (setDisc { s.disc with state := .free, returnState := .free, holdoverTimer := none } s) := by
      rw [expireHoldover, state]
    have work := expireHoldover_work s
    refine ⟨_, taken, ?_, ?_, ?_, ?_, work.sched, work.mon .a, work.mon .b, work.lines, work.caps⟩ <;> rw [fell]
    · simp [setDisc]
    · simp [setDisc]
    · exact handOnDiscipline_stateOf _ _
    · simp

end Records

end Sys2Proof.Machine

/-! PROOFS. The evaluation of the selection: which path it chooses, what each outcome makes of the controller and the
timescale, and how it is handed on. -/

namespace Sys2Proof.Machine

section Evaluation

variable (s : State)

/-! ## What each outcome leaves -/

theorem gainPath_disc (q : Path) :
    (gainPath q s).disc =
      { s.disc with
        state := .acquiring
        selected := some q
        returnState := if s.disc.state = .holdover then .holdover else .free } := by
  simp [gainPath, setDisc]

theorem gainPath_ts (q : Path) : (gainPath q s).ts = s.ts := by simp [gainPath]

/-- The controller after a loss in ACQUIRING (R56). -/
theorem losePath_disc_acquiring (byPath : Bool) (state : s.disc.state = .acquiring) :
    (losePath byPath s).disc =
      if s.disc.returnState = .holdover then { s.disc with state := .holdover, selected := none, returnState := .free }
      else { s.disc with state := .free, selected := none, returnState := .free, holdoverTimer := none } := by
  unfold losePath
  rw [state]
  cases s.disc.returnState <;> simp [setDisc]

/-- The controller after a loss in LOCKED (R59). -/
theorem losePath_disc_locked (byPath : Bool) (state : s.disc.state = .locked) :
    (losePath byPath s).disc =
      if byPath then
        { s.disc with
          state := .holdover
          selected := none
          returnState := .free
          holdoverTimer := if s.disc.config.holdoverLimit = 0 then none else some 0 }
      else { s.disc with state := .free, selected := none, returnState := .free, holdoverTimer := none } := by
  unfold losePath
  rw [state]
  cases byPath <;> simp [setDisc, setTs]

theorem losePath_ts_of_not_locked (byPath : Bool) (notLocked : s.disc.state ≠ .locked) :
    (losePath byPath s).ts = s.ts := by
  unfold losePath
  cases state : s.disc.state with
  | acquiring => cases s.disc.returnState <;> simp
  | locked => exact absurd state notLocked
  | free => simp
  | holdover => simp

/-- Setting a locked timescale free, with or without a measurement to await (R14, R58, R59). -/
theorem stopAnchoring_ts_locked (awaits : Bool) (locked : s.disc.state = .locked) :
    ({ (stopAnchoring s).ts with switchPending := awaits } : Timescale) = freedTimescale awaits s := by
  unfold stopAnchoring freedTimescale
  cases pending : s.ts.switchPending with
  | true =>
    rw [if_neg (by simp [anchored, pending])]
    rfl
  | false =>
    rw [if_pos (by simp [anchored, pending, locked])]
    cases due : s.ts.boundaryDue <;> simp [leaveAnchoring, freqShare, due, setTs]

theorem losePath_ts_locked (byPath : Bool) (locked : s.disc.state = .locked) :
    (losePath byPath s).ts = freedTimescale false s := by
  rw [← stopAnchoring_ts_locked s false locked]
  unfold losePath
  rw [locked]
  cases byPath <;> simp [setTs]

theorem switchPath_ts (q : Path) :
    (switchPath q s).ts = if s.disc.state = .locked then freedTimescale true s else s.ts := by
  unfold switchPath
  dsimp only
  by_cases locked : s.disc.state = .locked
  · rw [if_pos locked, if_pos locked, ← stopAnchoring_ts_locked s true locked]
    simp [setTs]
  · rw [if_neg locked, if_neg locked]
    simp

/-- An evaluation that changes the selection sets up the timescale and the controller, and hands the change on (R63). -/
theorem evaluate_handedOn (changes : s.disc.selected ≠ chosenPath s) :
    ∃ c d, evaluate s = handOnDiscipline s.disc.state (setDisc d (setTs c s)) ∧ c.era = s.ts.era ∧ c.now = s.ts.now := by
  have whole : ∀ d, setDisc d s = setDisc d (setTs s.ts s) := fun _ => rfl
  have stopped : ∃ c, stopAnchoring s = setTs c s ∧ c.era = s.ts.era ∧ c.now = s.ts.now := by
    unfold stopAnchoring
    split
    · exact ⟨_, rfl, rfl, rfl⟩
    · exact ⟨s.ts, rfl, rfl, rfl⟩
  obtain ⟨c, freed, era, now⟩ := stopped
  rcases evaluate_cases s with ⟨same, _⟩ | ⟨q, _, _, e⟩ | ⟨p, q, _, _, _, e⟩ | ⟨p, _, _, e⟩
  · exact absurd same changes
  · exact ⟨s.ts, _, e.trans rfl, rfl, rfl⟩
  · rw [e]
    unfold switchPath
    dsimp only
    split
    · rw [freed]
      exact ⟨_, _, rfl, era, now⟩
    · exact ⟨s.ts, _, rfl, rfl, rfl⟩
  · rw [e]
    unfold losePath
    cases state : s.disc.state with
    | acquiring => cases s.disc.returnState <;> exact ⟨s.ts, _, rfl, rfl, rfl⟩
    | locked =>
      dsimp only
      rw [freed]
      split <;> exact ⟨_, _, rfl, era, now⟩
    | free => exact ⟨s.ts, _, rfl, rfl, rfl⟩
    | holdover => exact ⟨s.ts, _, rfl, rfl, rfl⟩

theorem evaluate_journal (changes : s.disc.selected ≠ chosenPath s) :
    (evaluate s).journal =
      journalAfter s.ts.era s.ts.now (.discipline s.disc.state (evaluate s).disc.state (chosenPath s)) s.journal := by
  have selected := (@evaluate_selected s).1
  obtain ⟨c, d, e, era, now⟩ := evaluate_handedOn s changes
  rw [e] at selected ⊢
  rw [← selected]
  simp [setDisc, setTs, era, now]

theorem evaluate_of_same (same : s.disc.selected = chosenPath s) : evaluate s = s := by
  rcases evaluate_cases s with ⟨_, e⟩ | ⟨q, none, chosen, _⟩ | ⟨p, q, selected, chosen, other, _⟩ | ⟨p, selected, chosen, _⟩
  · exact e
  · rw [none, chosen] at same; cases same
  · rw [selected, chosen] at same; exact absurd (Option.some.inj same) other
  · rw [selected, chosen] at same; cases same

/-- An evaluation that changes the selection raises DISCIPLINE (R63). -/
theorem evaluate_reports (changes : s.disc.selected ≠ chosenPath s) :
    (evaluate s).attn.stateOf .discipline = (s.attn.stateOf .discipline).whenRaised ∧
      (evaluate s).link =
        { s.link with outbound := queueAfterRaise .discipline s.attn (queueAfterRecord s) } := by
  obtain ⟨c, d, e, _, _⟩ := evaluate_handedOn s changes
  rw [e]
  exact ⟨handOnDiscipline_stateOf _ _, handOnDiscipline_link _ _⟩

theorem evaluate_freqEstimate : (evaluate s).disc.freqEstimate = s.disc.freqEstimate := by
  rcases evaluate_cases s with ⟨_, e⟩ | ⟨q, _, _, e⟩ | ⟨p, q, _, _, _, e⟩ | ⟨p, _, _, e⟩ <;> rw [e]
  · rw [gainPath_disc]
  · rw [switchPath_disc]
  · unfold losePath
    cases s.disc.state with
    | acquiring => cases s.disc.returnState <;> simp [setDisc]
    | locked => dsimp only; split <;> simp [setDisc, setTs]
    | free => simp [setDisc]
    | holdover => simp [setDisc]

/-! ## The chosen path -/

/-- The choice depends on the controller and on the states of the paths. -/
theorem chosenPath_congr {t : State} (disc : t.disc = s.disc) (mon : ∀ p, t.mon p = s.mon p) :
    chosenPath t = chosenPath s := by
  have eligibles : eligible t = eligible s := funext fun p => eligible_congr (by rw [mon]) (by rw [disc])
  have selectables : selectable t = selectable s := funext fun p => by rw [selectable, selectable, mon, disc]
  simp only [chosenPath, selectAnew, revert, leaveSuspect, keepEligible, eligibles, selectables, disc, mon]

/-- With the selected path, if any, not eligible, the choice is made anew (R53, step 4). -/
theorem chosenPath_anew (lost : ∀ p, s.disc.selected = some p → eligible s p = false) :
    chosenPath s = selectAnew s none := by
  have dropped : keepEligible s = none := by
    rw [keepEligible, Option.filter_eq_none_iff]
    exact fun p selected => by simp [lost p selected]
  rw [chosenPath, dropped]
  rfl

/-- With an eligible path selected, some path stays selected (R53, steps 2 and 3). -/
theorem chosenPath_kept {p : Path} (selected : s.disc.selected = some p) (ok : eligible s p = true) :
    chosenPath s = revert s (leaveSuspect s (some p)) := by
  have kept : keepEligible s = some p := by
    rw [keepEligible, selected, Option.filter_some, if_pos ok]
  rw [chosenPath, kept]
  rfl

theorem revert_off (off : s.disc.config.revertive = false) (p : Path) : revert s (some p) = some p := by
  unfold revert
  cases s.disc.config.policy.preferred <;> simp [off]

theorem revert_on {q : Path} (on : s.disc.config.revertive = true) (preferred : s.disc.config.policy.preferred = some q)
    (p : Path) : revert s (some p) = some (if (s.mon q).state = .good then q else p) := by
  simp [revert, preferred, on]

theorem leaveSuspect_good {p : Path} (good : (s.mon p).state = .good) : leaveSuspect s (some p) = some p := by
  simp [leaveSuspect, good]

theorem leaveSuspect_suspect {p : Path} (suspect : (s.mon p).state = .suspect) :
    leaveSuspect s (some p) = some (if selectable s (otherPath p) then otherPath p else p) := by
  simp [leaveSuspect, suspect]

theorem eligible_of_suspect {p : Path} (suspect : (s.mon p).state = .suspect)
    (allows : s.disc.config.policy.allows p = true) : eligible s p = true := by
  simp [eligible, suspect, allows, PathState.trusted]

theorem chosenPath_policy_none (policy : s.disc.config.policy = .none) : chosenPath s = none := by
  rw [chosenPath_anew s fun p _ => by simp [eligible, policy, Policy.allows]]
  simp [selectAnew, policy, Policy.preferred]

/-- Settles O45: the choice by the four steps of R53, and the outcomes one by one. -/
theorem evaluationChoosesThePath : Obligations.EvaluationChoosesThePath := by
  intro s active
  have selected := (@evaluate_selected s).1
  have work := evaluate_work s
  refine ⟨selected, work.mon .a, work.mon .b, (@evaluate_selected s).2, evaluate_freqEstimate s,
    fun p => chosenPath_eligible s p, chosenPath_policy_none s, ?anew, ?good, ?leave, ?stay, ?reverts,
    evaluate_of_same s, fun changes => ⟨evaluate_journal s changes, evaluate_reports s changes⟩, ?untouched, ?freed,
    ?gained, ?switched, ?lost⟩
  case anew =>
    intro q lost preferred
    rw [chosenPath_anew s lost]
    refine ⟨fun first => ?_, fun first second => ?_, fun first second => ?_⟩ <;> simp [selectAnew, *]
  case good =>
    intro p selected ok good off
    rw [chosenPath_kept s selected ok, leaveSuspect_good s good, revert_off s off]
  case leave =>
    intro p selected suspect better allows off
    rw [chosenPath_kept s selected (eligible_of_suspect s suspect allows), leaveSuspect_suspect s suspect, if_pos better,
      revert_off s off]
  case stay =>
    intro p selected suspect worse allows off
    rw [chosenPath_kept s selected (eligible_of_suspect s suspect allows), leaveSuspect_suspect s suspect,
      if_neg (by rw [worse]; nofun), revert_off s off]
  case reverts =>
    intro p q selected ok on preferred
    rw [chosenPath_kept s selected ok]
    have reverted := revert_on s on preferred
    refine ⟨fun good => ?_, fun notGood good => ?_, fun notGood suspect => ?_⟩
    · rw [show leaveSuspect s (some p) = some _ from rfl, reverted, if_pos good]
    · rw [leaveSuspect_good s good, reverted, if_neg notGood]
    · rw [leaveSuspect_suspect s suspect, reverted, if_neg notGood]
  case untouched =>
    intro notLocked
    rcases evaluate_cases s with ⟨_, e⟩ | ⟨q, _, _, e⟩ | ⟨p, q, _, _, _, e⟩ | ⟨p, _, _, e⟩ <;> rw [e]
    · exact gainPath_ts s q
    · rw [switchPath_ts, if_neg notLocked]
    · exact losePath_ts_of_not_locked s _ notLocked
  case freed =>
    intro locked changes
    rcases evaluate_cases s with ⟨same, _⟩ | ⟨q, none, _, _⟩ | ⟨p, q, _, chosen, _, e⟩ | ⟨p, _, chosen, e⟩
    · exact absurd same changes
    · have := active.mpr (.inr locked)
      rw [none] at this
      cases this
    · rw [e, switchPath_ts, if_pos locked, chosen]
      rfl
    · rw [e, losePath_ts_locked s _ locked, chosen]
      rfl
  case gained =>
    intro none chosen
    rcases evaluate_cases s with ⟨same, _⟩ | ⟨q, _, _, e⟩ | ⟨p, q, some, _⟩ | ⟨p, some, _⟩
    · exact absurd (same.symm.trans none) chosen
    · rw [e, gainPath_disc]
      exact ⟨rfl, rfl, rfl⟩
    · rw [none] at some; cases some
    · rw [none] at some; cases some
  case switched =>
    intro some chosen
    rcases evaluate_cases s with ⟨_, e⟩ | ⟨q, none, _⟩ | ⟨p, q, _, _, _, e⟩ | ⟨p, _, lost, _⟩
    · rw [e]
      exact ⟨rfl, rfl, rfl⟩
    · exact absurd none some
    · rw [e, switchPath_disc]
      exact ⟨rfl, rfl, rfl⟩
    · exact absurd lost chosen
  case lost =>
    intro p some lost
    have e : evaluate s = losePath (!(s.mon p).state.trusted) s := by
      unfold evaluate
      rw [some, lost]
    rw [e]
    refine ⟨fun state => ?_, fun state untrusted => ?_, fun state trusted => ?_⟩
    · rw [losePath_disc_acquiring s _ state]
      by_cases held : s.disc.returnState = .holdover <;> simp [held]
    · rw [losePath_disc_locked s _ state, untrusted]
      exact ⟨rfl, rfl, rfl⟩
    · rw [losePath_disc_locked s _ state, trusted]
      exact ⟨rfl, rfl, rfl⟩

/-! ## Handing a change of path on -/

/-- The state in which a change of path has been told, before the selection is evaluated (R37). -/
def toldPath (p : Path) (old : PathState) (fault : Option FaultKind) (s : State) : State :=
  raise .path (appendRecord (.path p old (s.mon p).state fault (decide (s.disc.selected = some p))) s)

theorem handOnPath_eq (p : Path) (old : PathState) (fault : Option FaultKind) :
    handOnPath p old fault s = evaluate (toldPath p old fault s) := rfl

theorem toldPath_chosen (p : Path) (old : PathState) (fault : Option FaultKind) :
    chosenPath (toldPath p old fault s) = chosenPath s :=
  chosenPath_congr s (by simp [toldPath]) (fun q => by simp [toldPath])

/-- Settles O26: the record, the raise and then the evaluation. -/
theorem pathChangeIsHandedOn : Obligations.PathChangeIsHandedOn := by
  intro s p old fault
  have chosen := toldPath_chosen s p old fault
  have disc : (toldPath p old fault s).disc = s.disc := by simp [toldPath]
  have ts : (toldPath p old fault s).ts = s.ts := by simp [toldPath]
  refine ⟨toldPath p old fault s, handOnPath_eq s p old fault, ?_, raise_journal_of_append _ _ _, ?_, ?_, ?_, chosen,
    fun same => ?_, fun changes => ?_⟩
  · rw [← raise_append_link s .path _ nofun nofun]
    unfold toldPath
    rw [raise_eq, appendRecord_eq]
  · rw [toldPath, raise_subscribed, appendRecord_subscribed]
  · rw [toldPath, raise_own, appendRecord_stateOf _ _ .path nofun nofun]
    rfl
  · intro k notPath notLevel notOverrun
    rw [toldPath, raise_other _ notPath.symm, appendRecord_stateOf _ _ _ notLevel notOverrun]
  · rw [handOnPath_eq, evaluate_of_same _ (by rw [disc, chosen, same])]
  · have := evaluate_journal (toldPath p old fault s) (by rwa [disc, chosen])
    rw [disc, ts, chosen] at this
    exact this

/-! ## The estimate -/

theorem changePath_freqEstimate (p : Path) (m : Monitor) (fault : Option FaultKind) :
    (changePath p m fault s).disc.freqEstimate = s.disc.freqEstimate := by
  rw [changePath, handOnPath_eq, evaluate_freqEstimate]
  simp [toldPath]

/-- A clean second moves the estimate as handing it to the controller does (R35, R64). -/
theorem cleanSecond_freqEstimate (p : Path) (ticks : Nat) :
    (cleanSecond p ticks s).disc.freqEstimate =
      (if s.disc.selected = some p then handCleanSecond ticks s else s).disc.freqEstimate := by
  unfold cleanSecond
  generalize (if s.disc.selected = some p then handCleanSecond ticks s else s) = u
  dsimp only
  split
  · split
    · exact changePath_freqEstimate _ _ _ _
    · simp
  · split
    · exact changePath_freqEstimate _ _ _ _
    · simp
  all_goals rfl

/-- Settles O46: the estimate after a clean second is what the controller makes of it. -/
theorem estimateLearnsWhileLocked : Obligations.EstimateLearnsWhileLocked := by
  intro s p ticks least most within
  have measured : (freqMeasurement ticks).natAbs ≤ 100000 := by
    unfold freqMeasurement
    dsimp only [Config.ticksPerSecond]
    omega
  refine ⟨measured, fun selected locked => ?_, fun other => ?_⟩
  · have learned : (cleanSecond p ticks s).disc.freqEstimate =
        moveEstimate s.disc.freqEstimate (freqMeasurement ticks) := by
      rw [cleanSecond_freqEstimate, if_pos selected, handCleanSecond, if_pos locked]
      rfl
    exact ⟨learned, learned ▸ moveEstimate_bound _ _ within measured⟩
  · rw [cleanSecond_freqEstimate]
    split
    · rw [handCleanSecond, if_neg (other.resolve_left fun h => h ‹_›)]
    · rfl

end Evaluation

end Sys2Proof.Machine

/-! PROOFS. The requests of the timescale, the monitors and the controller, and the four scopes of RESET. -/

namespace Sys2Proof.Machine

section Rules

variable {s t : State} {r : Request} {c : Instr} {accepts : Request → Bool} {rep : Reply} {α : Type}
  {read : List Byte → Option α} {x : α}

/-! ## Answering by what is read -/

theorem hasKind_of {k : Byte} (kind : r.kind = k) : hasKind k r = true := by simp [hasKind, kind]

/-- A row that reads a payload answers with what its owner gives on it. -/
theorem answered_of_read {owner : α → State → Reply × State} (row : exec c s = take accepts (parsed read owner) s)
    (head : headRequest s = some r) (accepted : accepts r = true) (reads : read r.payload = some x)
    (done : owner x (dequeueRequest s) = (rep, t)) : AnsweredWith c r rep t s :=
  answeredWith_of_take s row head accepted ((parsed_of_read _ reads).trans done)

/-- A row that cannot read a payload refuses it as MALFORMED (R176, R184). -/
theorem malformed_of_unread {owner : α → State → Reply × State} (row : exec c s = take accepts (parsed read owner) s)
    (head : headRequest s = some r) (accepted : accepts r = true) (unread : read r.payload = none) :
    RefusedWith c r .malformed s :=
  answeredWith_of_take s row head accepted (parsed_of_malformed _ unread)

/-- A row without fields answers a request without a payload. -/
theorem answered_of_bare {owner : State → Reply × State} (row : exec c s = take accepts (bare owner) s)
    (head : headRequest s = some r) (accepted : accepts r = true) (empty : r.payload = [])
    (done : owner (dequeueRequest s) = (rep, t)) : AnsweredWith c r rep t s :=
  answeredWith_of_take s row head accepted ((bare_of_nil _ empty).trans done)

/-- A row without fields refuses a payload as MALFORMED (R176). -/
theorem malformed_of_payload {owner : State → Reply × State} (row : exec c s = take accepts (bare owner) s)
    (head : headRequest s = some r) (accepted : accepts r = true) (some : r.payload ≠ []) :
    RefusedWith c r .malformed s :=
  answeredWith_of_take s row head accepted (if_neg some)

end Rules

section Resets

variable {s : State} {r : Request}

/-! ## RESET (R178, R179) -/

theorem accepts_scope {scope : ResetScope} (kind : r.kind = 0x02#8) (payload : r.payload = [scope.code]) :
    asksScope scope r = true := by
  rw [asksScope, (readScope_iff scope r.payload).mpr payload, hasKind_of kind]
  exact decide_eq_true rfl

/-- A RESET of a scope that acts at once answers with the scope and leaves its effect. -/
theorem scopedReset_answers {c : Instr} {scope : ResetScope} {effect : State → State}
    (row : exec c s = scopedReset scope effect s) (head : headRequest s = some r) (kind : r.kind = 0x02#8)
    (payload : r.payload = [scope.code]) :
    AnsweredWith c r (okReply [scope.code]) (effect (dequeueRequest s)) s :=
  answered_of_read row head (accepts_scope kind payload) ((readScope_iff scope r.payload).mpr payload) rfl

@[simp] theorem scheduleReset_entries (s : State) : (scheduleReset s).sched.entries = [] := by
  simp [scheduleReset, emptySchedule, Schedule.entries, Schedule.allWaiting]

theorem scheduleReset_line (s : State) (i : Fin 8) : (scheduleReset s).lines[i] = IdledLine s.lines[i] := by
  simp [scheduleReset, emptySchedule, OutLine.scopedReset, IdledLine]

/-- Settles O6, by the law of a scoped reset. -/
theorem resetScheduleEmptiesTheSchedule : Obligations.ResetScheduleEmptiesTheSchedule := by
  intro s r head kind payload
  exact ⟨scheduleReset (dequeueRequest s), scopedReset_answers (scope := .schedule) rfl head kind payload, rfl,
    scheduleReset_entries _, rfl, scheduleReset_line _⟩

/-- The timescale once its slew has been abandoned (R23). -/
theorem abandonFreeSlew_ts (s : State) :
    (abandonFreeSlew s).ts =
      if s.ts.freeRun.slew = 0 then s.ts
      else { s.ts with freeRun := ⟨0, (unappliedParts s).1.2, s.ts.now.tick, 0⟩ } := by
  unfold abandonFreeSlew
  split
  · rfl
  · simp [setTs, unappliedParts_ts]

/-- Abandoning the slew makes at most a choice. -/
theorem abandonFreeSlew_eq (s : State) :
    abandonFreeSlew s = { s with ts := (abandonFreeSlew s).ts, choices := (abandonFreeSlew s).choices } := by
  unfold abandonFreeSlew unappliedParts
  split
  · rfl
  · dsimp only
    split <;> rfl

/-- The timescale that a RESET of scope TIMESCALE leaves, but for the era (R23). -/
def unsetTimescale (c : Timescale) : Timescale :=
  { c with
    now := ⟨0, c.now.tick⟩
    timeState := .unset
    stagedLoad := none
    remainingSlew := 0
    slewAmount := 0
    slewLeft := 0
    slewLost := 0 }

theorem timescaleReset_eq (s : State) :
    timescaleReset s =
      scheduleReset (declareEra .unset (setTs (unsetTimescale (abandonFreeSlew s).ts) (abandonFreeSlew s))) := rfl

theorem declareEra_journal (cause : EraCause) (s : State) :
    (declareEra cause s).journal = journalAfter (s.ts.era + 1) s.ts.now (.era (s.ts.era + 1) cause) s.journal := by
  unfold declareEra
  exact raise_journal_of_append _ _ _

theorem declareEra_subscribed (cause : EraCause) (s : State) :
    (declareEra cause s).attn.subscribed = s.attn.subscribed := by
  unfold declareEra
  dsimp only
  rw [raise_subscribed, appendRecord_subscribed]
  rfl

/-- What abandoning the slew makes of the free-running second (R23). -/
theorem abandonFreeSlew_freeRun (s : State) :
    (abandonFreeSlew s).ts.freeRun.slew = 0 ∧ (s.ts.freeRun.slew = 0 → (abandonFreeSlew s).ts.freeRun = s.ts.freeRun) ∧
      (s.ts.freeRun.slew ≠ 0 →
        ∃ left rest : Int, SplitOf s.ts left rest ∧ (abandonFreeSlew s).ts.freeRun = ⟨0, rest, s.ts.now.tick, 0⟩) := by
  rw [abandonFreeSlew_ts]
  by_cases idle : s.ts.freeRun.slew = 0
  · rw [if_pos idle]
    exact ⟨idle, fun _ => rfl, fun slewing => absurd idle slewing⟩
  · rw [if_neg idle]
    exact ⟨rfl, fun none => absurd none idle, fun _ => ⟨_, _, unappliedParts_split s, rfl⟩⟩

/-- Abandoning the slew changes of the timescale only the free-running second. -/
theorem abandonFreeSlew_rest (s : State) :
    (abandonFreeSlew s).ts = { s.ts with freeRun := (abandonFreeSlew s).ts.freeRun } := by
  rw [abandonFreeSlew_ts]
  split <;> rfl

theorem timescaleReset_ts (s : State) :
    (timescaleReset s).ts =
      { unsetTimescale s.ts with era := s.ts.era + 1, freeRun := (abandonFreeSlew s).ts.freeRun } := by
  have scheduled : ∀ u : State, (scheduleReset u).ts = u.ts := fun _ => rfl
  have set : ∀ (c : Timescale) (u : State), (setTs c u).ts = c := fun _ _ => rfl
  rw [timescaleReset_eq, scheduled, declareEra_ts, set, abandonFreeSlew_rest]
  rfl

/-- What a RESET of scope TIMESCALE reports (R4, R23). -/
theorem timescaleReset_reports (s : State) :
    (timescaleReset s).journal =
        journalAfter (s.ts.era + 1) ⟨0, s.ts.now.tick⟩ (.era (s.ts.era + 1) .unset) s.journal ∧
      (timescaleReset s).attn.stateOf .era = (s.attn.stateOf .era).whenRaised ∧
      (timescaleReset s).attn.subscribed = s.attn.subscribed := by
  have scheduled : ∀ u : State, (scheduleReset u).journal = u.journal ∧ (scheduleReset u).attn = u.attn :=
    fun _ => ⟨rfl, rfl⟩
  obtain ⟨journal, attn⟩ := scheduled
    (declareEra .unset (setTs (unsetTimescale (abandonFreeSlew s).ts) (abandonFreeSlew s)))
  rw [timescaleReset_eq, journal, attn, declareEra_journal, declareEra_stateOf, declareEra_subscribed,
    abandonFreeSlew_rest, abandonFreeSlew_eq]
  exact ⟨rfl, rfl, rfl⟩

/-- What a RESET of scope TIMESCALE leaves of the other blocks, with the lines reset (R23, R109). -/
theorem timescaleReset_rest (s : State) :
    (timescaleReset s).disc = s.disc ∧ (timescaleReset s).monA = s.monA ∧ (timescaleReset s).monB = s.monB ∧
      (timescaleReset s).caps = s.caps ∧ (timescaleReset s).run = s.run ∧ (timescaleReset s).elapsed = s.elapsed ∧
      (timescaleReset s).link.requests = s.link.requests ∧
      (timescaleReset s).sched.admissions = s.sched.admissions ∧
      ∀ i : Fin 8, (timescaleReset s).lines[i] = IdledLine s.lines[i] := by
  have work := timescaleReset_clockWork s
  have kept := (timescaleReset_internal s)
  refine ⟨work.disc, work.mon .a, work.mon .b, work.caps, kept.run, kept.elapsed, ?_, work.admissions, fun i => ?_⟩
  · rw [kept.link]
  · rw [timescaleReset_eq, scheduleReset_line]
    have lines : (declareEra .unset (setTs (unsetTimescale (abandonFreeSlew s).ts) (abandonFreeSlew s))).lines = s.lines := by
      rw [abandonFreeSlew_eq]
      simp [declareEra, setTs]
    rw [lines]

/-- Settles O8: the slew abandoned, the time unset, the discontinuity declared and the schedule reset, in that order. -/
theorem resetTimescaleUnsetsTheTime : Obligations.ResetTimescaleUnsetsTheTime := by
  intro s r head kind payload
  refine ⟨timescaleReset (dequeueRequest s), scopedReset_answers (scope := .timescale) rfl head kind payload, ?_⟩
  have ts := timescaleReset_ts (dequeueRequest s)
  obtain ⟨slew, idle, slewing⟩ := abandonFreeSlew_freeRun (dequeueRequest s)
  obtain ⟨journal, raised, subscribed⟩ := timescaleReset_reports (dequeueRequest s)
  obtain ⟨disc, monA, monB, caps, run, elapsed, requests, admissions, lines⟩ := timescaleReset_rest (dequeueRequest s)
  rw [ts]
  exact ⟨rfl, rfl, rfl, rfl, rfl, rfl, rfl, slew, idle, slewing, rfl, rfl, rfl, rfl, journal, raised, subscribed,
    scheduleReset_entries _, admissions, lines, disc, monA, monB, caps, run, elapsed, requests⟩

/-- A RESET that names no scope is refused under each of the four rows (log entry 6). -/
theorem asksScope_of_unread {scope : ResetScope} (kind : r.kind = 0x02#8) (unread : readScope r.payload = none) :
    asksScope scope r = true := by
  rw [asksScope, unread, hasKind_of kind]
  rfl

theorem readScope_none (unnamed : r.payload.length ≠ 1 ∨ 3 < byteAt 0 r.payload) : readScope r.payload = none := by
  unfold readScope
  split
  · have beyond := unnamed.resolve_left fun other => other ‹_›
    obtain ⟨k, more⟩ := Nat.exists_eq_add_of_le beyond
    rw [more, Nat.add_comm]
    rfl
  · rfl

/-- A malformed RESET is refused by the row of scope PART as well (R178). -/
theorem resetPart_malformed (head : headRequest s = some r) (kind : r.kind = 0x02#8)
    (unread : readScope r.payload = none) : RefusedWith .resetPart r .malformed s := by
  show execResetPart s = _
  unfold execResetPart
  rw [head]
  dsimp only
  rw [if_pos (asksScope_of_unread kind unread), unread]

/-- Settles O9: the row of scope PART, and the four rows on a malformed payload. -/
theorem resetPartWindsTheLinkDown : Obligations.ResetPartWindsTheLinkDown := by
  intro s r head kind
  refine ⟨fun payload => ?_, fun unnamed => ?_⟩
  · have read := (readScope_iff .part r.payload).mpr payload
    have taken : exec .resetPart s =
        .next (windDown (answer .partReset r (okReply [0x03#8]) (dequeueRequest s))) := by
      show execResetPart s = _
      unfold execResetPart
      rw [head]
      dsimp only
      rw [if_pos (accepts_scope (scope := .part) kind payload), read]
      rfl
    refine ⟨_, taken, ?_, ?_, fun q => ?_⟩
    · rw [answer, kind]
      rfl
    · refine if_neg fun ready => ?_
      obtain ⟨_, _, notPending⟩ := dispatcherReady_iff.mp ready
      cases notPending
    · exact if_pos rfl
  · have unread := readScope_none unnamed
    exact ⟨malformed_of_unread rfl head (asksScope_of_unread kind unread) unread,
      malformed_of_unread rfl head (asksScope_of_unread kind unread) unread,
      malformed_of_unread rfl head (asksScope_of_unread kind unread) unread, resetPart_malformed head kind unread⟩

end Resets

end Sys2Proof.Machine

/-! PROOFS. The requests of the timescale, the monitors and the controller (chapters 1 to 3). -/

namespace Sys2Proof.Machine

section Requests

variable {s : State} {r : Request}

/-! ## Codes -/

theorem flagOf_iff (n : Nat) (b : Bool) : flagOf n = some b ↔ n = b.toNat := by
  unfold flagOf
  split <;> cases b <;> simp <;> omega

theorem flagOf_none {n : Nat} (beyond : 1 < n) : flagOf n = none := by
  obtain ⟨k, rfl⟩ := Nat.exists_eq_add_of_le beyond
  rw [Nat.add_comm]
  rfl

theorem flagOf_some {n : Nat} (range : n ≤ 1) : flagOf n = some (decide (n = 1)) := by
  rcases (by omega : n = 0 ∨ n = 1) with rfl | rfl <;> rfl

/-! ## SET TIME, CANCEL SET and ADJUST TIME (R7, R9, R10) -/

theorem numAt_whole (bs : List Byte) : numAt 0 bs.length bs = beNat bs := by
  simp [numAt]

theorem readSeconds_of_length {bs : List Byte} (length : bs.length = 5) : readSeconds bs = some (beNat bs) := by
  rw [readSeconds, if_pos length, ← length, numAt_whole]

/-- The signed amount of a payload of nine bytes. -/
theorem readSigned_of_length {bs : List Byte} (length : bs.length = 9) (sign : byteAt 0 bs ≤ 1) :
    readSigned bs = some (decide (byteAt 0 bs = 1), timeAt 1 bs) := by
  rw [readSigned, if_pos length, flagOf_some sign]
  rfl

theorem readSigned_none {bs : List Byte} (bad : bs.length ≠ 9 ∨ 1 < byteAt 0 bs) : readSigned bs = none := by
  unfold readSigned
  split
  · rw [flagOf_none (bad.resolve_left fun other => other ‹_›)]
    rfl
  · rfl

theorem signedTicks_eq (bs : List Byte) :
    signedTicks (decide (byteAt 0 bs = 1)) (timeAt 1 bs) = payloadAmount bs := by
  simp [signedTicks, payloadAmount]

theorem tickOk_iff (v : TimeValue) : v.tickOk = true ↔ v.tick < 125000000 := decide_eq_true_iff

/-- The addition to the slew is made within its limits, and refused outside (R10). -/
theorem adjustSlew_eq (neg : Bool) (v : TimeValue) (s : State) :
    adjustSlew (neg, v) s =
      if v.tick < 125000000 ∧ v.ticks ≤ 62500000 ∧ (s.ts.remainingSlew + signedTicks neg v).natAbs ≤ 62500000 then
        (okReply (signedDuration (s.ts.remainingSlew + signedTicks neg v)),
          setTs { s.ts with remainingSlew := s.ts.remainingSlew + signedTicks neg v } s)
      else refuse .range s := by
  simp only [adjustSlew, tickOk_iff]

/-- Settles O12, request by request. -/
theorem loadAndSlewRequests : Obligations.LoadAndSlewRequests := by
  intro s r head
  refine ⟨fun kind => ⟨fun length => ?_, fun length beyond => ?_, fun length within => ?_⟩,
    fun kind => ⟨fun payload => ?_, fun empty => ?_⟩, fun kind => ⟨fun bad => ?_, fun length sign => ⟨fun beyond => ?_, ?_⟩⟩⟩
  · exact malformed_of_unread rfl head (hasKind_of kind) (if_neg length)
  · exact answered_of_read rfl head (hasKind_of kind) (readSeconds_of_length length)
      (if_neg (Nat.not_lt.mpr beyond))
  · exact answered_of_read rfl head (hasKind_of kind) (readSeconds_of_length length)
      (if_pos (Nat.lt_succ_of_le within))
  · exact malformed_of_payload rfl head (hasKind_of kind) payload
  · exact answered_of_bare rfl head (hasKind_of kind) empty rfl
  · exact malformed_of_unread rfl head (hasKind_of kind) (readSigned_none bad)
  · refine answered_of_read rfl head (hasKind_of kind) (readSigned_of_length length sign) ?_
    rw [adjustSlew_eq, signedTicks_eq]
    refine if_neg fun ⟨tick, ticks, total⟩ => ?_
    rcases beyond with h | h | h
    · exact Nat.not_lt.mpr h tick
    · exact Nat.not_le.mpr h ticks
    · exact Nat.not_le.mpr h total
  · intro tick ticks total
    refine answered_of_read rfl head (hasKind_of kind) (readSigned_of_length length sign) ?_
    rw [adjustSlew_eq, signedTicks_eq]
    exact if_pos ⟨tick, ticks, total⟩

/-! ## STEP TIME (R15) -/

theorem takeJump_backward (old new : TimeValue) (s : State) :
    takeJump false old new s = setArmed (s.sched.armed.map (ArmedEntry.afterJump new)) s := rfl

/-- A step of the time is a jump taken in the state that has declared it (R15). -/
theorem stepTo_eq (forward : Bool) (new : TimeValue) (s : State) :
    stepTo forward new s = takeJump forward s.ts.now new
      (declareEra .step
        (setTs { s.ts with now := new, boundaryDue := s.ts.boundaryDue && decide (new.tick = 0) } s)) := rfl

theorem declareEra_sched (cause : EraCause) (s : State) :
    (declareEra cause s).sched = s.sched ∧ (declareEra cause s).lines = s.lines := by
  unfold declareEra
  exact ⟨by simp, by simp⟩

theorem stepTo_ts (forward : Bool) (new : TimeValue) (s : State) :
    (stepTo forward new s).ts =
      { s.ts with
        now := new
        era := s.ts.era + 1
        boundaryDue := s.ts.boundaryDue && decide (new.tick = 0) } := by
  rw [stepTo_eq, (takeJump_schedulePart _ _ _ _).ts, declareEra_ts]
  rfl

theorem stepTo_era_raised (forward : Bool) (new : TimeValue) (s : State) :
    (stepTo forward new s).attn.stateOf .era = (s.attn.stateOf .era).whenRaised := by
  rw [stepTo_eq, (takeJump_schedulePart _ _ _ _).kinds .era nofun nofun nofun, declareEra_stateOf]
  rfl

/-- The checks of STEP TIME in their order, and its effect (R15). -/
theorem stepTime_eq (neg : Bool) (v : TimeValue) (s : State) :
    stepTime (neg, v) s =
      if s.ts.timeState = .unset then refuse .notSet s
      else if s.disc.state = .acquiring ∨ s.disc.state = .locked then refuse .state s
      else if v.tick < 125000000 ∧ 0 ≤ s.ts.now.lin + signedTicks neg v ∧
          s.ts.now.lin + signedTicks neg v < wrapLin then
        let done :=
          if v.ticks = 0 then s else stepTo (!neg) (TimeValue.ofLin (s.ts.now.lin + signedTicks neg v).toNat) s
        (okReply (timeBytes done.ts.now ++ beBytes 2 done.ts.era.toNat), done)
      else refuse .range s := by
  simp only [stepTime, tickOk_iff]

/-- Settles O14: the checks in their order, and the step as a declared jump. -/
theorem stepTimeMovesTheTime : Obligations.StepTimeMovesTheTime := by
  intro s r head kind
  refine ⟨fun bad => malformed_of_unread rfl head (hasKind_of kind) (readSigned_none bad), fun length sign => ?_⟩
  have answered {rep : Reply} {t : State}
      (done : stepTime (decide (byteAt 0 r.payload = 1), timeAt 1 r.payload) (dequeueRequest s) = (rep, t)) :
      AnsweredWith .stepTime r rep t s :=
    answered_of_read rfl head (hasKind_of kind) (readSigned_of_length length sign) done
  refine ⟨fun unset => ?_, fun set active => ?_, fun set resting => ?_⟩
  · refine answered ?_
    rw [stepTime_eq]
    exact if_pos unset
  · refine answered ?_
    rw [stepTime_eq, if_neg (by rw [dequeueRequest_ts, set]; nofun)]
    exact if_pos active
  · have isSet : ¬ (dequeueRequest s).ts.timeState = .unset := by rw [dequeueRequest_ts, set]; nofun
    have notActive : ¬ ((dequeueRequest s).disc.state = .acquiring ∨ (dequeueRequest s).disc.state = .locked) := by
      rw [dequeueRequest_disc]
      rcases resting with state | state <;> rw [state] <;> nofun
    have stepped := stepTime_eq (decide (byteAt 0 r.payload = 1)) (timeAt 1 r.payload) (dequeueRequest s)
    rw [if_neg isSet, if_neg notActive, signedTicks_eq] at stepped
    intro target
    refine ⟨?_, ?_, ?_⟩
    · intro beyond
      refine answered (stepped.trans (if_neg ?_))
      rintro ⟨tick, least, most⟩
      rcases beyond with h | h | h
      · exact Nat.not_lt.mpr h tick
      · exact Int.not_le.mpr h least
      · exact Int.not_lt.mpr h most
    · intro tick zero least most
      refine answered (stepped.trans ((if_pos ⟨tick, least, most⟩).trans ?_))
      dsimp only
      rw [if_pos zero]
      rfl
    · intro tick moves least most
      have forward : (!decide (byteAt 0 r.payload = 1)) = decide (byteAt 0 r.payload = 0) := by
        rcases (by omega : byteAt 0 r.payload = 0 ∨ byteAt 0 r.payload = 1) with e | e <;> rw [e] <;> rfl
      have done := stepped.trans (if_pos ⟨tick, least, most⟩)
      dsimp only at done
      rw [if_neg moves, forward, stepTo_ts] at done
      have work := stepTo_clockWork (dequeueRequest s) (decide (byteAt 0 r.payload = 0))
        (TimeValue.ofLin ((s.ts.now.lin : Int) + payloadAmount r.payload).toNat)
      have kept := stepTo_internal (dequeueRequest s) (decide (byteAt 0 r.payload = 0))
        (TimeValue.ofLin ((s.ts.now.lin : Int) + payloadAmount r.payload).toNat)
      refine ⟨_, answered done, rfl, stepTo_ts _ _ _, stepTo_era_raised _ _ _, work.disc, work.mon .a, work.mon .b,
        work.caps, kept.run, kept.elapsed, fun isForward => ?_, fun isBackward => ?_⟩
      · rw [decide_eq_true isForward]
        refine ⟨_, stepTo_eq _ _ _, ?_, ?_, ?_, ?_⟩
        · rw [stepTo_ts, declareEra_ts]
          rfl
        · exact (declareEra_sched _ _).1
        · exact (declareEra_sched _ _).2
        · exact declareEra_journal _ _
      · rw [show decide (byteAt 0 r.payload = 0) = false by rw [isBackward]; rfl, stepTo_eq, takeJump_backward]
        refine ⟨?_, ?_, ?_, ?_⟩
        · rw [setArmed_sched]
          exact (congrArg Schedule.waiting (declareEra_sched _ _).1 :)
        · rw [setArmed_lines]
          exact (declareEra_sched _ _).2
        · rw [setArmed_sched, (declareEra_sched _ _).1, List.map_map]
          exact List.map_congr_left fun a _ => by cases a; rfl
        · rw [setArmed_journal]
          exact declareEra_journal _ _

end Requests

end Sys2Proof.Machine

/-! PROOFS. The requests of the monitors. -/

namespace Sys2Proof.Machine

section Codes

/-! ## Codes of the monitors' requests -/

theorem pathOf_iff (n : Nat) (p : Path) : pathOf n = some p ↔ n = (pathCode (some p)).toNat := by
  rcases n with _ | _ | n <;> cases p <;> simp [pathOf, pathCode]

theorem pathOf_some {n : Nat} (range : n ≤ 1) : ∃ p, pathOf n = some p := by
  rcases (by omega : n = 0 ∨ n = 1) with rfl | rfl
  · exact ⟨.a, rfl⟩
  · exact ⟨.b, rfl⟩

theorem rateOf_iff (n : Nat) (k : Fin 7) : rateOf n = some k ↔ n = k.val := by
  unfold rateOf
  split
  · simp [Fin.ext_iff]
  · exact ⟨nofun, fun same => absurd (same ▸ k.isLt) (by assumption)⟩

/-- The layout of SET PATH CONFIG (Table 11.9). -/
def PathConfigAt (bs : List Byte) (p : Path) (c : PathConfig) : Prop :=
  byteAt 0 bs = (pathCode (some p)).toNat ∧ byteAt 1 bs = c.rate.val ∧ c.tolerance = numAt 2 4 bs ∧
    c.skewLimit = numAt 6 2 bs ∧ c.qualifyMarks = byteAt 8 bs ∧ c.recoverMarks = byteAt 9 bs ∧
    c.failFaults = byteAt 10 bs ∧ byteAt 11 bs = c.autoRestart.toNat ∧ c.holdOffSeconds = numAt 12 2 bs

theorem readPathConfig_iff (bs : List Byte) (p : Path) (c : PathConfig) :
    readPathConfig bs = some (p, c) ↔ bs.length = 14 ∧ PathConfigAt bs p c := by
  obtain ⟨rate, tolerance, skew, qualify, recover, fail, auto, holdOff⟩ := c
  by_cases length : bs.length = 14
  · simp only [readPathConfig, length, if_true, Option.bind_eq_bind, Option.bind_eq_some_iff, Option.some.injEq,
      Prod.mk.injEq, PathConfig.mk.injEq, PathConfigAt, pathOf_iff, rateOf_iff, flagOf_iff, true_and]
    constructor
    · rintro ⟨_, path, _, rates, _, autos, rfl, rfl, rfl, rfl, rfl, rfl, rfl, rfl, rfl⟩
      exact ⟨path, rates, rfl, rfl, rfl, rfl, rfl, autos, rfl⟩
    · rintro ⟨path, rates, rfl, rfl, rfl, rfl, rfl, autos, rfl⟩
      exact ⟨_, path, _, rates, _, autos, rfl, rfl, rfl, rfl, rfl, rfl, rfl, rfl, rfl⟩
  · simp [readPathConfig, length]

theorem readPathConfig_none {bs : List Byte}
    (bad : bs.length ≠ 14 ∨ 1 < byteAt 0 bs ∨ 6 < byteAt 1 bs ∨ 1 < byteAt 11 bs) : readPathConfig bs = none := by
  refine Option.eq_none_iff_forall_not_mem.mpr ?_
  rintro ⟨p, c⟩ reads
  obtain ⟨length, path, rate, -, -, -, -, -, auto, -⟩ := (readPathConfig_iff bs p c).mp reads
  have pathRange : (pathCode (some p)).toNat ≤ 1 := by cases p <;> decide
  have autoRange : c.autoRestart.toNat ≤ 1 := c.autoRestart.toNat_le
  have rateRange := c.rate.isLt
  omega

theorem readPathConfig_some {bs : List Byte} (length : bs.length = 14) (path : byteAt 0 bs ≤ 1) (rate : byteAt 1 bs ≤ 6)
    (auto : byteAt 11 bs ≤ 1) : ∃ p c, readPathConfig bs = some (p, c) := by
  obtain ⟨p, named⟩ := pathOf_some path
  exact ⟨p, ⟨⟨byteAt 1 bs, Nat.lt_succ_of_le rate⟩, numAt 2 4 bs, numAt 6 2 bs, byteAt 8 bs, byteAt 9 bs, byteAt 10 bs,
      decide (byteAt 11 bs = 1), numAt 12 2 bs⟩,
    (readPathConfig_iff _ _ _).mpr ⟨length, (pathOf_iff _ _).mp named, rfl, rfl, rfl, rfl, rfl, rfl,
      (flagOf_iff _ _).mp (flagOf_some auto), rfl⟩⟩

/-- The ranges of Table 2.2. -/
theorem PathConfig.inRange_iff (c : PathConfig) :
    c.inRange = true ↔
      1 ≤ c.tolerance ∧ c.tolerance ≤ 125000000 / 10 ^ c.rate.val / 4 ∧ 1 ≤ c.skewLimit ∧ c.skewLimit ≤ 12500 ∧
        1 ≤ c.qualifyMarks ∧ c.qualifyMarks ≤ 15 ∧ 1 ≤ c.recoverMarks ∧ c.recoverMarks ≤ 15 ∧ 1 ≤ c.failFaults ∧
        c.failFaults ≤ 15 ∧ 1 ≤ c.holdOffSeconds ∧ c.holdOffSeconds ≤ 3600 := by
  simp only [PathConfig.inRange, Bool.and_eq_true, decide_eq_true_eq, and_assoc]
  rfl

theorem readPathControl_of_bytes (p : Path) (op : PathOperation) :
    readPathControl [pathCode (some p), op.code] = some (p, op) := by
  cases p <;> cases op <;> rfl

theorem readPathControl_none {bs : List Byte} (bad : bs.length ≠ 2 ∨ 1 < byteAt 0 bs ∨ 2 < byteAt 1 bs) :
    readPathControl bs = none := by
  refine Option.eq_none_iff_forall_not_mem.mpr ?_
  rintro ⟨p, op⟩ reads
  obtain ⟨path, range, rfl⟩ := (readPathControl_iff op bs).mp ⟨p, reads⟩
  have second : byteAt 1 [path, op.code] = op.code.toNat := rfl
  have first : byteAt 0 [path, op.code] = path.toNat := rfl
  have opRange : op.code.toNat ≤ 2 := by cases op <;> decide
  rcases bad with length | bad | bad
  · exact length rfl
  · omega
  · omega

end Codes

section Requests

variable {s : State} {r : Request}

@[simp] theorem dequeueRequest_mon (s : State) (p : Path) : (dequeueRequest s).mon p = s.mon p := by cases p <;> rfl

/-- Settles O15, by the layout and the ranges of a path's configuration. -/
theorem setPathConfigNeedsADisabledPath : Obligations.SetPathConfigNeedsADisabledPath := by
  intro s r head kind
  have answered {p : Path} {c : PathConfig} {rep : Reply} {t : State} (reads : readPathConfig r.payload = some (p, c))
      (done : configurePath (p, c) (dequeueRequest s) = (rep, t)) : AnsweredWith .setPathConfig r rep t s :=
    answered_of_read rfl head (hasKind_of kind) reads done
  refine ⟨malformed_of_unread rfl head (hasKind_of kind), readPathConfig_none, readPathConfig_some,
    fun p c reads => ((readPathConfig_iff _ _ _).mp reads).2, fun p c reads => ?_⟩
  intro ranges
  have inRange : c.inRange = true ↔ ranges := c.inRange_iff
  refine ⟨fun outside => ?_, fun inside enabled => ?_, fun inside disabled => ?_⟩
  · refine answered reads ?_
    rw [configurePath, if_neg (mt inRange.mp outside)]
    rfl
  · refine answered reads ?_
    rw [configurePath, if_pos (inRange.mpr inside), dequeueRequest_mon, if_neg enabled]
    rfl
  · refine answered reads ?_
    rw [configurePath, if_pos (inRange.mpr inside), dequeueRequest_mon, if_pos disabled]

/-- RESTART (R44): each state but DISABLED ends in ABSENT, and a change of state is handed on. -/
theorem restartPath_eq (p : Path) (s : State) :
    restartPath p s =
      if (s.mon p).state = .disabled then refuse .state s
      else if (s.mon p).state = .absent then (okReply [0x01#8], setMon p (freshMonitor (s.mon p)) s)
      else (okReply [0x01#8], handOnPath p (s.mon p).state none (setMon p (freshMonitor (s.mon p)) s)) := by
  have handed : pathReply p (changePath p (freshMonitor (s.mon p)) none s) =
      (okReply [0x01#8], handOnPath p (s.mon p).state none (setMon p (freshMonitor (s.mon p)) s)) := by
    rw [pathReply, changePath_mon]
    rfl
  have stored : pathReply p (setMon p (freshMonitor (s.mon p)) s) =
      (okReply [0x01#8], setMon p (freshMonitor (s.mon p)) s) := by
    rw [pathReply, setMon_mon]
    rfl
  have fresh : ((s.mon p).cleared .absent).forgetFaults = freshMonitor (s.mon p) := rfl
  unfold restartPath
  rw [fresh]
  cases state : (s.mon p).state with
  | disabled => rfl
  | absent => exact stored
  | qualifying => exact handed.trans (by rw [state]; rfl)
  | good => exact handed.trans (by rw [state]; rfl)
  | suspect => exact handed.trans (by rw [state]; rfl)
  | failed => exact handed.trans (by rw [state]; rfl)

/-- ENABLE (R45). -/
theorem enablePath_eq (p : Path) (s : State) :
    enablePath p s =
      if (s.mon p).state = .disabled then
        (okReply [0x01#8], handOnPath p .disabled none (setMon p (freshMonitor (s.mon p)) s))
      else (okReply [(s.mon p).state.code], s) := by
  unfold enablePath
  split
  · rename_i state
    rw [pathReply, changePath_mon, changePath, state]
    rfl
  · rfl

/-- DISABLE (R46). -/
theorem disablePath_eq (p : Path) (s : State) :
    disablePath p s =
      if (s.mon p).state = .disabled then (okReply [0x00#8], s)
      else (okReply [0x00#8], handOnPath p (s.mon p).state none (setMon p (disabledMonitor (s.mon p)) s)) := by
  unfold disablePath
  split
  · rename_i state
    rw [pathReply, state]
    rfl
  · rw [pathReply, changePath_mon]
    rfl

/-- A PATH CONTROL that names an operation is answered by that operation's row. -/
theorem pathControl_answers {c : Instr} {op : PathOperation} {owner : Path → State → Reply × State}
    (row : exec c s = take (asksOperation op) (parsed readPathControl fun n => owner n.1) s)
    (head : headRequest s = some r) (kind : r.kind = 0x09#8) (p : Path) (payload : r.payload = [pathCode (some p), op.code])
    {rep : Reply} {t : State} (done : owner p (dequeueRequest s) = (rep, t)) : AnsweredWith c r rep t s := by
  have reads : readPathControl r.payload = some (p, op) := by rw [payload, readPathControl_of_bytes]
  refine answered_of_read row head ?_ reads done
  rw [asksOperation, hasKind_of kind, reads]
  exact decide_eq_true rfl

/-- A PATH CONTROL that names no operation is refused under each of the three rows. -/
theorem pathControl_malformed {c : Instr} {op : PathOperation} {owner : Path → State → Reply × State}
    (row : exec c s = take (asksOperation op) (parsed readPathControl fun n => owner n.1) s)
    (head : headRequest s = some r) (kind : r.kind = 0x09#8)
    (bad : r.payload.length ≠ 2 ∨ 1 < byteAt 0 r.payload ∨ 2 < byteAt 1 r.payload) : RefusedWith c r .malformed s := by
  have unread := readPathControl_none bad
  refine malformed_of_unread row head ?_ unread
  rw [asksOperation, hasKind_of kind, unread]
  rfl

/-- Settles O16, by the equation of each operation. -/
theorem pathControlMovesThePath : Obligations.PathControlMovesThePath := by
  intro s r head kind
  refine ⟨fun bad => ⟨pathControl_malformed (op := .restart) rfl head kind bad,
    pathControl_malformed (op := .enable) rfl head kind bad, pathControl_malformed (op := .disable) rfl head kind bad⟩,
    fun p => ?_⟩
  intro m s0
  have mon : s0.mon p = m := dequeueRequest_mon s p
  refine ⟨fun payload => ?_, fun payload => ?_, fun payload => ?_⟩
  · have restarted := restartPath_eq p s0
    rw [mon] at restarted
    refine ⟨fun state => ?_, fun state => ?_, fun watched present => ?_⟩ <;>
      refine pathControl_answers (op := .restart) rfl head kind p payload (restarted.trans ?_)
    · exact if_pos state
    · rw [if_neg (by rw [state]; nofun), if_pos state]
    · rw [if_neg watched, if_neg present]
  · have enabled := enablePath_eq p s0
    rw [mon] at enabled
    exact ⟨fun state => pathControl_answers (op := .enable) rfl head kind p payload (enabled.trans (if_pos state)),
      fun state => pathControl_answers (op := .enable) rfl head kind p payload (enabled.trans (if_neg state))⟩
  · have disabled := disablePath_eq p s0
    rw [mon] at disabled
    exact ⟨fun state => pathControl_answers (op := .disable) rfl head kind p payload (disabled.trans (if_pos state)),
      fun state => pathControl_answers (op := .disable) rfl head kind p payload (disabled.trans (if_neg state))⟩

end Requests

end Sys2Proof.Machine

/-! PROOFS. SET DISCIPLINE CONFIG: its layout, the judging of the holdover timer, and the two orders in which an expiry
meets a gain. -/

namespace Sys2Proof.Machine

section Codes

/-- The code of a policy (Table 11.4). -/
def Policy.code : Policy → Nat
  | .preferA => 0
  | .preferB => 1
  | .onlyA => 2
  | .onlyB => 3
  | .none => 4

/-- The code of an acquire mode (Table 11.4). -/
def AcquireMode.code : AcquireMode → Nat
  | .jumpOverLimit => 0
  | .alwaysSlew => 1

theorem policyOf_iff (n : Nat) (p : Policy) : policyOf n = some p ↔ n = p.code := by
  rcases n with _ | _ | _ | _ | _ | n <;> cases p <;> simp [policyOf, Policy.code]

theorem acquireModeOf_iff (n : Nat) (m : AcquireMode) : acquireModeOf n = some m ↔ n = m.code := by
  rcases n with _ | _ | n <;> cases m <;> simp [acquireModeOf, AcquireMode.code]

/-- Distinct policies have distinct codes. -/
theorem Policy.code_eq_iff {p q : Policy} {n : Nat} (named : n = p.code) : p = q ↔ n = q.code := by
  subst named
  cases p <;> cases q <;> simp [Policy.code]

theorem AcquireMode.code_eq_iff {m k : AcquireMode} {n : Nat} (named : n = m.code) : m = k ↔ n = k.code := by
  subst named
  cases m <;> cases k <;> simp [AcquireMode.code]

theorem readDiscConfig_iff (bs : List Byte) (c : DiscConfig) :
    readDiscConfig bs = some c ↔
      bs.length = 13 ∧ byteAt 0 bs = c.policy.code ∧ byteAt 1 bs = c.revertive.toNat ∧
        c.holdoverLimit = numAt 2 4 bs ∧ byteAt 6 bs = c.acquireMode.code ∧ c.acquireSlewLimit = numAt 7 4 bs ∧
        c.slewRate = numAt 11 2 bs := by
  obtain ⟨policy, revertive, limit, mode, slewLimit, rate⟩ := c
  by_cases length : bs.length = 13
  · simp only [readDiscConfig, length, if_true, Option.bind_eq_bind, Option.bind_eq_some_iff, Option.some.injEq,
      DiscConfig.mk.injEq, policyOf_iff, flagOf_iff, acquireModeOf_iff, true_and]
    constructor
    · rintro ⟨_, policies, _, reverts, _, modes, rfl, rfl, rfl, rfl, rfl, rfl⟩
      exact ⟨policies, reverts, rfl, modes, rfl, rfl⟩
    · rintro ⟨policies, reverts, rfl, modes, rfl, rfl⟩
      exact ⟨_, policies, _, reverts, _, modes, rfl, rfl, rfl, rfl, rfl, rfl⟩
  · simp [readDiscConfig, length]

theorem readDiscConfig_none {bs : List Byte}
    (bad : bs.length ≠ 13 ∨ 4 < byteAt 0 bs ∨ 1 < byteAt 1 bs ∨ 1 < byteAt 6 bs) : readDiscConfig bs = none := by
  refine Option.eq_none_iff_forall_not_mem.mpr fun c reads => ?_
  obtain ⟨length, policy, revertive, -, mode, -, -⟩ := (readDiscConfig_iff bs c).mp reads
  have policyRange : c.policy.code ≤ 4 := by cases c.policy <;> decide
  have flagRange : c.revertive.toNat ≤ 1 := c.revertive.toNat_le
  have modeRange : c.acquireMode.code ≤ 1 := by cases c.acquireMode <;> decide
  omega

theorem policyOf_some {n : Nat} (range : n ≤ 4) : ∃ p : Policy, n = p.code := by
  rcases (by omega : n = 0 ∨ n = 1 ∨ n = 2 ∨ n = 3 ∨ n = 4) with rfl | rfl | rfl | rfl | rfl
  · exact ⟨.preferA, rfl⟩
  · exact ⟨.preferB, rfl⟩
  · exact ⟨.onlyA, rfl⟩
  · exact ⟨.onlyB, rfl⟩
  · exact ⟨.none, rfl⟩

theorem acquireModeOf_some {n : Nat} (range : n ≤ 1) : ∃ m : AcquireMode, n = m.code := by
  rcases (by omega : n = 0 ∨ n = 1) with rfl | rfl
  · exact ⟨.jumpOverLimit, rfl⟩
  · exact ⟨.alwaysSlew, rfl⟩

theorem readDiscConfig_some {bs : List Byte} (length : bs.length = 13) (policy : byteAt 0 bs ≤ 4)
    (revertive : byteAt 1 bs ≤ 1) (mode : byteAt 6 bs ≤ 1) : ∃ c, readDiscConfig bs = some c := by
  obtain ⟨p, policies⟩ := policyOf_some policy
  obtain ⟨m, modes⟩ := acquireModeOf_some mode
  exact ⟨⟨p, decide (byteAt 1 bs = 1), numAt 2 4 bs, m, numAt 7 4 bs, numAt 11 2 bs⟩,
    (readDiscConfig_iff bs _).mpr ⟨length, policies, (flagOf_iff _ _).mp (flagOf_some revertive), rfl, modes, rfl, rfl⟩⟩

/-- The ranges of Table 3.2. -/
theorem DiscConfig.inRange_iff (c : DiscConfig) :
    c.inRange = true ↔
      c.holdoverLimit ≤ 86400 ∧ c.acquireSlewLimit ≤ 62500000 ∧ 1 ≤ c.slewRate ∧ c.slewRate ≤ 6250 := by
  simp only [DiscConfig.inRange, Bool.and_eq_true, decide_eq_true_eq, and_assoc]

end Codes

section Judging

variable (s : State)

/-! ## The holdover timer against a limit (R51) -/

theorem applyHoldoverLimit_drops (runs : s.disc.holdoverTimer.isSome = true) (limit : s.disc.config.holdoverLimit = 0) :
    applyHoldoverLimit s = setDisc { s.disc with holdoverTimer := none } s := by
  obtain ⟨count, timer⟩ := Option.isSome_iff_exists.mp runs
  unfold applyHoldoverLimit
  rw [timer]
  exact if_pos limit

theorem applyHoldoverLimit_limited {count : Nat} (timer : s.disc.holdoverTimer = some count)
    (limit : s.disc.config.holdoverLimit ≠ 0) :
    applyHoldoverLimit s = if s.disc.config.holdoverLimit * 125000000 ≤ count then expireHoldover s else s := by
  have due : holdoverDue s.disc = true ↔ s.disc.config.holdoverLimit * 125000000 ≤ count := by
    rw [holdoverDue_iff]
    exact ⟨fun ⟨_, same, _, reached⟩ => Option.some.inj (timer.symm.trans same) ▸ reached,
      fun reached => ⟨count, timer, limit, reached⟩⟩
  have judged : applyHoldoverLimit s = if holdoverDue s.disc = true then expireHoldover s else s := by
    unfold applyHoldoverLimit
    rw [timer]
    exact if_neg limit
  rw [judged]
  exact if_congr due rfl rfl

/-- The states in which a holdover is under way, from the point of view of its timer (R51). -/
def HoldoverRuns (d : Discipline) : Prop := d.state = .holdover ∨ (d.state = .acquiring ∧ d.returnState = .holdover)

theorem applyHoldoverLimit_starts (timer : s.disc.holdoverTimer = none) (limit : s.disc.config.holdoverLimit ≠ 0)
    (runs : HoldoverRuns s.disc) : applyHoldoverLimit s = setDisc { s.disc with holdoverTimer := some 0 } s := by
  unfold applyHoldoverLimit
  rw [timer]
  exact if_pos ⟨limit, runs⟩

theorem applyHoldoverLimit_stays (timer : s.disc.holdoverTimer = none)
    (idle : s.disc.config.holdoverLimit = 0 ∨ ¬ HoldoverRuns s.disc) : applyHoldoverLimit s = s := by
  unfold applyHoldoverLimit
  rw [timer]
  exact if_neg fun ⟨limit, runs⟩ => idle.elim limit fun none => none runs

theorem expireHoldover_config : (expireHoldover s).disc.config = s.disc.config := by
  unfold expireHoldover
  cases s.disc.state <;> simp [setDisc]

theorem applyHoldoverLimit_config : (applyHoldoverLimit s).disc.config = s.disc.config := by
  cases timer : s.disc.holdoverTimer with
  | some count =>
    by_cases limit : s.disc.config.holdoverLimit = 0
    · rw [applyHoldoverLimit_drops s (by rw [timer]; rfl) limit]
      rfl
    · rw [applyHoldoverLimit_limited s timer limit]
      split
      · exact expireHoldover_config s
      · rfl
  | none =>
    by_cases starts : s.disc.config.holdoverLimit ≠ 0 ∧ HoldoverRuns s.disc
    · rw [applyHoldoverLimit_starts s timer starts.1 starts.2]
      rfl
    · rw [applyHoldoverLimit_stays s timer (by tauto)]

/-! ## Where an expiry meets a gain (R62) -/

/-- The choice depends on the selection, the configuration and the paths alone (R53). -/
theorem chosenPath_of_config {t : State} (selected : t.disc.selected = s.disc.selected)
    (config : t.disc.config = s.disc.config) (mon : ∀ p, t.mon p = s.mon p) : chosenPath t = chosenPath s := by
  have eligibles : eligible t = eligible s := funext fun p => eligible_congr (by rw [mon]) (by rw [config])
  have selectables : selectable t = selectable s := funext fun p => by rw [selectable, selectable, mon, config]
  simp only [chosenPath, selectAnew, revert, leaveSuspect, keepEligible, eligibles, selectables, selected, config, mon]

/-- A holdover whose timer has reached its limit at the instant a path can be selected. -/
structure ExpiryMeetsGain (s : State) (q : Path) : Prop where
  state : s.disc.state = .holdover
  selected : s.disc.selected = none
  limit : s.disc.config.holdoverLimit ≠ 0
  timer : ∃ count, s.disc.holdoverTimer = some count ∧ s.disc.config.holdoverLimit * 125000000 ≤ count
  chosen : chosenPath s = some q

variable {s} {q : Path}

/-- The controller that both orders end in. -/
def Discipline.gainedAfterExpiry (d : Discipline) (q : Path) : Discipline :=
  ⟨d.config, .acquiring, some q, .free, none, d.freqEstimate⟩

theorem ExpiryMeetsGain.expires (meets : ExpiryMeetsGain s q) : applyHoldoverLimit s = expireHoldover s := by
  obtain ⟨count, timer, reached⟩ := meets.timer
  rw [applyHoldoverLimit_limited s timer meets.limit, if_pos reached]

/-- The expiry first: HOLDOVER falls to FREE, and the gain starts from FREE. -/
theorem ExpiryMeetsGain.expiry_first (meets : ExpiryMeetsGain s q) :
    (evaluate (applyHoldoverLimit s)).disc = s.disc.gainedAfterExpiry q ∧
      (evaluate (applyHoldoverLimit s)).journal =
        journalAfter s.ts.era s.ts.now (.discipline .free .acquiring (some q))
          (journalAfter s.ts.era s.ts.now (.discipline .holdover .free none) s.journal) := by
  rw [meets.expires]
  have expired : expireHoldover s = handOnDiscipline .holdover
      (setDisc { s.disc with state := .free, returnState := .free, holdoverTimer := none } s) := by
    unfold expireHoldover
    rw [meets.state]
  have disc : (expireHoldover s).disc =
      { s.disc with state := .free, returnState := .free, holdoverTimer := none } := by
    rw [expired, handOnDiscipline_disc]
    rfl
  have chosen : chosenPath (expireHoldover s) = some q :=
    (chosenPath_of_config s (by rw [disc]) (by rw [disc]) (expireHoldover_work s).mon).trans meets.chosen
  have unselected : (expireHoldover s).disc.selected = none := by rw [disc]; exact meets.selected
  have gained : evaluate (expireHoldover s) = gainPath q (expireHoldover s) := by
    unfold evaluate
    rw [unselected, chosen]
  have changes : (expireHoldover s).disc.selected ≠ chosenPath (expireHoldover s) := by
    rw [unselected, chosen]
    nofun
  have after : (evaluate (expireHoldover s)).disc = s.disc.gainedAfterExpiry q := by
    rw [gained, gainPath_disc, disc]
    rfl
  refine ⟨after, ?_⟩
  rw [evaluate_journal _ changes, after, chosen, disc, expired, handOnDiscipline_ts, handOnDiscipline_journal]
  change journalAfter s.ts.era s.ts.now (.discipline .free .acquiring (some q))
    (journalAfter s.ts.era s.ts.now (.discipline .holdover .free s.disc.selected) s.journal) = _
  rw [meets.selected]

/-- The gain first: HOLDOVER goes to ACQUIRING, and the expiry leaves it there with FREE to return to. -/
theorem ExpiryMeetsGain.gain_first (meets : ExpiryMeetsGain s q) :
    (applyHoldoverLimit (evaluate s)).disc = s.disc.gainedAfterExpiry q ∧
      (applyHoldoverLimit (evaluate s)).journal =
        journalAfter s.ts.era s.ts.now (.discipline .holdover .acquiring (some q)) s.journal := by
  obtain ⟨count, timer, reached⟩ := meets.timer
  have changes : s.disc.selected ≠ chosenPath s := by
    rw [meets.selected, meets.chosen]
    nofun
  have gained : evaluate s = gainPath q s := by
    unfold evaluate
    rw [meets.selected, meets.chosen]
  have disc : (evaluate s).disc =
      { s.disc with state := .acquiring, selected := some q, returnState := .holdover } := by
    rw [gained, gainPath_disc, if_pos meets.state]
  have stopped : applyHoldoverLimit (evaluate s) =
      setDisc { (evaluate s).disc with returnState := .free, holdoverTimer := none } (evaluate s) := by
    rw [applyHoldoverLimit_limited _ (count := count) (by rw [disc]; exact timer) (by rw [disc]; exact meets.limit),
      if_pos (by rw [disc]; exact reached)]
    unfold expireHoldover
    rw [disc]
  refine ⟨?_, ?_⟩
  · rw [stopped, disc]
    rfl
  · rw [stopped]
    refine (evaluate_journal s changes).trans ?_
    rw [disc, meets.state, meets.chosen]

theorem gainMeetsExpiry_iff (limit : Nat) (s : State) :
    gainMeetsExpiry limit s = true ↔ s.disc.config.holdoverLimit = limit ∧ ∃ q, ExpiryMeetsGain s q := by
  unfold gainMeetsExpiry
  simp only [Bool.and_eq_true, decide_eq_true_eq, holdoverDue_iff, Option.isSome_iff_exists, and_assoc]
  constructor
  · rintro ⟨same, state, ⟨count, timer, limited, reached⟩, selected, q, chosen⟩
    exact ⟨same, q, state, selected, limited, ⟨count, timer, reached⟩, chosen⟩
  · rintro ⟨same, q, state, selected, limited, ⟨count, timer, reached⟩, chosen⟩
    exact ⟨same, state, ⟨count, timer, limited, reached⟩, selected, q, chosen⟩

theorem applyConfig_config (limit : Nat) (s : State) : (applyConfig limit s).disc.config = s.disc.config := by
  rcases applyConfig_cases s limit with ⟨_, e⟩ | ⟨_, e | e⟩ <;> rw [e]
  · rw [evaluate_selected.2, applyHoldoverLimit_config]
  · rw [evaluate_selected.2, applyHoldoverLimit_config]
  · rw [applyHoldoverLimit_config, evaluate_selected.2]

/-- Either order ends in the same controller, and the journal tells which was taken. -/
theorem applyConfig_of_meets {limit : Nat} (same : s.disc.config.holdoverLimit = limit) (meets : ExpiryMeetsGain s q) :
    (applyConfig limit s).disc = s.disc.gainedAfterExpiry q ∧
      ((applyConfig limit s).journal =
          journalAfter s.ts.era s.ts.now (.discipline .holdover .acquiring (some q)) s.journal ∨
        (applyConfig limit s).journal =
          journalAfter s.ts.era s.ts.now (.discipline .free .acquiring (some q))
            (journalAfter s.ts.era s.ts.now (.discipline .holdover .free none) s.journal)) := by
  have counted : ExpiryMeetsGain { s with choices := s.choices + 1 } q :=
    ⟨meets.state, meets.selected, meets.limit, meets.timer, (chosenPath_congr s rfl fun p => by cases p <;> rfl).trans meets.chosen⟩
  rcases applyConfig_cases s limit with ⟨apart, _⟩ | ⟨_, e | e⟩
  · have met := (gainMeetsExpiry_iff limit s).mpr ⟨same, q, meets⟩
    rw [met] at apart
    cases apart
  · rw [e]
    exact ⟨counted.expiry_first.1, .inr counted.expiry_first.2⟩
  · rw [e]
    exact ⟨counted.gain_first.1, .inl counted.gain_first.2⟩

theorem applyConfig_of_apart {limit : Nat} (apart : ¬ (s.disc.config.holdoverLimit = limit ∧ ∃ q, ExpiryMeetsGain s q)) :
    applyConfig limit s = evaluate (applyHoldoverLimit s) := by
  rcases applyConfig_cases s limit with ⟨_, e⟩ | ⟨meets, _⟩
  · exact e
  · exact absurd ((gainMeetsExpiry_iff limit s).mp meets) apart

end Judging

section Request

/-- Settles O17, by the judging of the timer and the two orders of an expiry that meets a gain. -/
theorem setDisciplineConfigTakesEffect : Obligations.SetDisciplineConfigTakesEffect := by
  intro s r head kind
  refine ⟨malformed_of_unread rfl head (hasKind_of kind), readDiscConfig_none, readDiscConfig_some, fun c reads => ?_,
    fun c reads => ?_⟩
  · obtain ⟨-, policy, revertive, limit, mode, slewLimit, rate⟩ := (readDiscConfig_iff _ _).mp reads
    exact ⟨Policy.code_eq_iff policy, Policy.code_eq_iff policy, Policy.code_eq_iff policy, Policy.code_eq_iff policy,
      Policy.code_eq_iff policy, revertive, limit, AcquireMode.code_eq_iff mode, AcquireMode.code_eq_iff mode, slewLimit,
      rate⟩
  intro ranges stored meets
  have inRange : c.inRange = true ↔ ranges := c.inRange_iff
  have answered {rep : Reply} {t : State} (done : configureDiscipline c (dequeueRequest s) = (rep, t)) :
      AnsweredWith .setDisciplineConfig r rep t s :=
    answered_of_read rfl head (hasKind_of kind) reads done
  refine ⟨fun outside => answered (if_neg (mt inRange.mp outside)), fun inside => ?_⟩
  have met : meets ↔ stored.disc.config.holdoverLimit = s.disc.config.holdoverLimit ∧ ∃ q, ExpiryMeetsGain stored q := by
    constructor
    · rintro ⟨same, limit, state, selected, chosen, timer⟩
      obtain ⟨q, chosen⟩ := Option.ne_none_iff_exists'.mp chosen
      exact ⟨same, q, state, selected, limit, timer, chosen⟩
    · rintro ⟨same, q, state, selected, limit, timer, chosen⟩
      exact ⟨same, limit, state, selected, by rw [chosen]; nofun, timer⟩
  refine ⟨applyHoldoverLimit stored, applyConfig s.disc.config.holdoverLimit stored,
    answered (if_pos (inRange.mpr inside)), applyConfig_config _ _, applyHoldoverLimit_drops stored,
    fun count timer limit => ?_, applyHoldoverLimit_starts stored, applyHoldoverLimit_stays stored,
    fun apart => applyConfig_of_apart (mt met.mpr apart), fun meeting => ?_⟩
  · have judged := applyHoldoverLimit_limited stored timer limit
    exact ⟨fun reached => judged.trans (if_pos reached), fun short => judged.trans (if_neg (Nat.not_le.mpr short))⟩
  · obtain ⟨same, q, gain⟩ := met.mp meeting
    rw [gain.chosen]
    exact applyConfig_of_meets same gain

end Request

end Sys2Proof.Machine

/-! PROOFS. Reading a laid-out run of bytes: the number in a field, field by field, and the queries' reports. -/

namespace Sys2Proof.Machine

section Numbers

variable {xs ys : List Byte} {x : Byte} {off n v : Nat}

/-! ## The number in a field -/

/-- The bytes of a number are its digits to base 256. -/
theorem beNat_beBytes_from (n v start : Nat) :
    (beBytes n v).foldl (fun acc b => acc * 256 + b.toNat) start = start * 256 ^ n + v % 256 ^ n := by
  induction n generalizing start with
  | zero => simp [beBytes, Nat.mod_one]
  | succ n ih =>
    rw [beBytes, List.foldl_cons, ih, Nat.pow_succ, Nat.mod_mul, BitVec.toNat_ofNat]
    ring

@[simp] theorem beNat_beBytes (n v : Nat) : beNat (beBytes n v) = v % 256 ^ n := by
  rw [beNat, beNat_beBytes_from]
  omega

@[simp] theorem beBytes_length (n v : Nat) : (beBytes n v).length = n := by
  induction n with
  | zero => rfl
  | succ n ih => rw [beBytes, List.length_cons, ih]

@[simp] theorem timeBytes_length (t : TimeValue) : (timeBytes t).length = 8 := beBytes_length _ _

@[simp] theorem durationBytes_length (n : Nat) : (durationBytes n).length = 8 := timeBytes_length _

/-- A field that lies in the second part. -/
theorem numAt_append_right (h : xs.length ≤ off) : numAt off n (xs ++ ys) = numAt (off - xs.length) n ys := by
  rw [numAt, numAt, List.drop_append, List.drop_eq_nil_of_le h, List.nil_append]

/-- A field that lies in the first part. -/
theorem numAt_append_left (h : off + n ≤ xs.length) : numAt off n (xs ++ ys) = numAt off n xs := by
  rw [numAt, numAt, List.drop_append_of_le_length (by omega), List.take_append_of_le_length (by simp; omega)]

/-- A field beyond the first byte. -/
theorem numAt_cons (h : 0 < off) : numAt off n (x :: xs) = numAt (off - 1) n xs := by
  obtain ⟨k, rfl⟩ := Nat.exists_eq_add_of_lt h
  simp [numAt]

@[simp] theorem numAt_head : numAt 0 1 (x :: xs) = x.toNat := by simp [numAt, beNat]

@[simp] theorem numAt_beBytes : numAt 0 n (beBytes n v) = v % 256 ^ n := by
  simp [numAt, List.take_of_length_le]

/-- A byte is a field of one. -/
theorem byteAt_eq_numAt (off : Nat) (bs : List Byte) : byteAt off bs = numAt off 1 bs := by
  induction bs generalizing off with
  | nil => simp [byteAt, numAt, beNat]
  | cons b bs ih =>
    cases off with
    | zero => simp [byteAt]
    | succ off => rw [numAt_cons (Nat.succ_pos _)]; exact ih off

theorem timeAt_eq (off : Nat) (bs : List Byte) :
    timeAt off bs = ⟨numAt off 8 bs / 2 ^ 27, numAt off 8 bs % 2 ^ 27⟩ := rfl

/-- The time value that 8 bytes carry is the one they were made of (R183). -/
theorem timeAt_of_timeBytes {t : TimeValue} {bs : List Byte} (field : numAt off 8 bs = numAt 0 8 (timeBytes t))
    (valid : t.Valid) : timeAt off bs = t := by
  obtain ⟨sec, tick⟩ := t
  obtain ⟨secRange, tickRange⟩ := valid
  dsimp only at secRange tickRange
  rw [timeAt_eq, field, timeBytes, numAt_beBytes, TimeValue.mk.injEq]
  dsimp only
  omega

/-- A duration of less than the whole timescale is sent as the time value at that count of ticks. -/
theorem durationBytes_eq {ticks : Nat} (range : ticks < wrapLin) : durationBytes ticks = timeBytes (TimeValue.ofLin ticks) := by
  have seconds : ticks / Config.ticksPerSecond < Config.secondsModulus :=
    Nat.div_lt_of_lt_mul (by rw [Nat.mul_comm]; exact range)
  rw [durationBytes, TimeValue.ofLin, Nat.mod_eq_of_lt seconds]

theorem timeAt_of_durationBytes {ticks : Nat} {bs : List Byte} (field : numAt off 8 bs = numAt 0 8 (durationBytes ticks))
    (range : ticks < wrapLin) : timeAt off bs = TimeValue.ofLin ticks :=
  timeAt_of_timeBytes (by rw [field, durationBytes_eq range]) (ofLin_valid ticks)

theorem ofLin_of_lt_second {ticks : Nat} (range : ticks < 125000000) : TimeValue.ofLin ticks = ⟨0, ticks⟩ := by
  rw [TimeValue.ofLin, TimeValue.mk.injEq]
  dsimp only [Config.ticksPerSecond, Config.secondsModulus]
  omega

end Numbers

section Blocks

variable {α : Type} {f : α → List Byte} {k : Nat}

/-! ## Blocks of equal length in a row -/

theorem flatten_length (even : ∀ a, (f a).length = k) (l : List α) : (l.map f).flatten.length = k * l.length := by
  induction l with
  | nil => rfl
  | cons a l ih => simp [ih, even, Nat.mul_succ, Nat.add_comm]

/-- A field within the block of a member. -/
theorem numAt_flatten (even : ∀ a, (f a).length = k) {l : List α} {i : Nat} {a : α} (member : l[i]? = some a)
    {off n : Nat} (inside : off + n ≤ k) : numAt (k * i + off) n (l.map f).flatten = numAt off n (f a) := by
  induction l generalizing i with
  | nil => simp at member
  | cons b l ih =>
    rw [List.map_cons, List.flatten_cons]
    cases i with
    | zero =>
      have same : b = a := Option.some.inj member
      subst same
      rw [Nat.mul_zero, Nat.zero_add, numAt_append_left (by rw [even]; exact inside)]
    | succ i =>
      have skip : k * (i + 1) + off - (f b).length = k * i + off := by rw [even, Nat.mul_succ]; omega
      rw [numAt_append_right (by rw [even, Nat.mul_succ]; omega), skip]
      exact ih member

end Blocks

section Queries

variable {s : State} {r : Request}

/-- The five queries are rows without fields and without an effect. -/
theorem queries_answer (s : State) (r : Request) (head : headRequest s = some r) :
    (r.payload = [] →
      (r.kind = 0x01#8 → AnsweredWith .queryStatus r (okReply (statusBytes s)) (dequeueRequest s) s) ∧
      (r.kind = 0x03#8 → AnsweredWith .queryTime r (okReply (timeReport s)) (dequeueRequest s) s) ∧
      (r.kind = 0x0A#8 →
        AnsweredWith .queryPaths r (okReply (pathBlock s.monA ++ pathBlock s.monB)) (dequeueRequest s) s) ∧
      (r.kind = 0x0F#8 → AnsweredWith .listSchedule r (okReply (scheduleReport s.sched)) (dequeueRequest s) s) ∧
      (r.kind = 0x12#8 → AnsweredWith .queryLines r (okReply (linesReport s)) (dequeueRequest s) s)) ∧
    (r.payload ≠ [] →
      (r.kind = 0x01#8 → RefusedWith .queryStatus r .malformed s) ∧
      (r.kind = 0x03#8 → RefusedWith .queryTime r .malformed s) ∧
      (r.kind = 0x0A#8 → RefusedWith .queryPaths r .malformed s) ∧
      (r.kind = 0x0F#8 → RefusedWith .listSchedule r .malformed s) ∧
      (r.kind = 0x12#8 → RefusedWith .queryLines r .malformed s)) :=
  ⟨fun empty =>
    ⟨fun kind => answered_of_bare rfl head (hasKind_of kind) empty rfl,
      fun kind => answered_of_bare rfl head (hasKind_of kind) empty rfl,
      fun kind => answered_of_bare rfl head (hasKind_of kind) empty rfl,
      fun kind => answered_of_bare rfl head (hasKind_of kind) empty rfl,
      fun kind => answered_of_bare rfl head (hasKind_of kind) empty rfl⟩,
   fun some =>
    ⟨fun kind => malformed_of_payload rfl head (hasKind_of kind) some,
      fun kind => malformed_of_payload rfl head (hasKind_of kind) some,
      fun kind => malformed_of_payload rfl head (hasKind_of kind) some,
      fun kind => malformed_of_payload rfl head (hasKind_of kind) some,
      fun kind => malformed_of_payload rfl head (hasKind_of kind) some⟩⟩

/-- The waiting entries, list after list. -/
theorem allWaiting_eq (c : Schedule) :
    c.allWaiting = c.waiting[0] ++ c.waiting[1] ++ c.waiting[2] ++ c.waiting[3] := by
  obtain ⟨armed, waiting, admissions⟩ := c
  obtain ⟨⟨l⟩, length⟩ := waiting
  obtain ⟨w0, w1, w2, w3, rfl⟩ := List.length_eq_four.mp length
  simp [Schedule.allWaiting]

/-- Settles O10, by the rule of a row without fields and the blocks of two bytes of a list of handles. -/
theorem queriesReportAndChangeNothing : Obligations.QueriesReportAndChangeNothing := by
  refine ⟨queries_answer, fun c capacity handles => ?_⟩
  intro b waiting
  have whole : c.allWaiting = waiting := allWaiting_eq c
  have report : b = (beBytes 1 c.armed.length ++ beBytes 1 waiting.length) ++
      ((c.armed.map fun a => beBytes 2 a.handle).flatten ++
        (waiting.map fun e => beBytes 2 e.desc.handle).flatten) := by
    rw [← whole, ← List.append_assoc]
    rfl
  have armedLength : (c.armed.map fun a => beBytes 2 a.handle).flatten.length = 2 * c.armed.length :=
    flatten_length (fun a => beBytes_length 2 _) _
  have waitingLength : (waiting.map fun e => beBytes 2 e.desc.handle).flatten.length = 2 * waiting.length :=
    flatten_length (fun e => beBytes_length 2 _) _
  have room : c.armed.length + waiting.length ≤ 64 := by
    rw [Schedule.entries, List.length_append, List.length_map, whole] at capacity
    exact capacity
  clear_value b waiting
  refine ⟨?_, ?_, ?_, fun i a member => ?_, fun i e member => ?_⟩
  · rw [report, List.length_append, List.length_append, List.length_append, armedLength, waitingLength, beBytes_length,
      beBytes_length]
    omega
  · rw [report, byteAt_eq_numAt, numAt_append_left (by simp), numAt_append_left (by simp), numAt_beBytes]
    omega
  · rw [report, byteAt_eq_numAt, numAt_append_left (by simp), numAt_append_right (by simp), beBytes_length,
      numAt_beBytes]
    omega
  · have known : a.entry ∈ c.entries :=
      List.mem_append_left _ (List.mem_map_of_mem (List.mem_of_getElem? member))
    have below : i < c.armed.length := (List.getElem?_eq_some_iff.mp member).1
    have place : 2 + 2 * i - (beBytes 1 c.armed.length ++ beBytes 1 waiting.length).length = 2 * i + 0 := by
      simp
    rw [report, numAt_append_right (by simp), place, numAt_append_left (by rw [armedLength]; omega),
      numAt_flatten (fun a => beBytes_length 2 _) member (by omega), numAt_beBytes]
    exact Nat.mod_eq_of_lt (Nat.lt_of_le_of_lt (handles _ known) (by decide))
  · have known : e ∈ c.entries :=
      List.mem_append_right _ (whole ▸ List.mem_of_getElem? member)
    have place : 2 + 2 * c.armed.length + 2 * i - (beBytes 1 c.armed.length ++ beBytes 1 waiting.length).length -
        (c.armed.map fun a => beBytes 2 a.handle).flatten.length = 2 * i + 0 := by
      rw [armedLength]
      simp
      omega
    rw [report, numAt_append_right (by simp; omega), numAt_append_right (by rw [armedLength]; simp; omega), place,
      numAt_flatten (fun e => beBytes_length 2 _) member (by omega), numAt_beBytes]
    exact Nat.mod_eq_of_lt (Nat.lt_of_le_of_lt (handles _ known) (by decide))

end Queries

end Sys2Proof.Machine

/-! PROOFS. The layout of the reports, of the records and of an entry's report (Tables 11.5 to 11.7 and 11.9). -/

namespace Sys2Proof.Machine

section Fields

variable {bs : List Byte} {off n : Nat}

/-! ## The lengths and the single bytes of what reports are made of -/

@[simp] theorem signByte_toNat (z : Int) : (signByte z).toNat = if z < 0 then 1 else 0 := by
  unfold signByte
  split <;> rfl

@[simp] theorem kindStateBytes_length (a : Attention) : (kindStateBytes a).length = 7 := by
  simp [kindStateBytes]

@[simp] theorem pathConfigBytes_length (c : PathConfig) : (pathConfigBytes c).length = 13 := by simp [pathConfigBytes]

@[simp] theorem lastFaultBytes_length (f : Option LastFault) : (lastFaultBytes f).length = 10 := by
  cases f <;> simp [lastFaultBytes]

@[simp] theorem outputBlock_length (l : OutLine) : (outputBlock l).length = 8 := by simp [outputBlock]

@[simp] theorem captureBlock_length (c : CapLine) : (captureBlock c).length = 12 := by
  simp [captureBlock, captureConfigBytes]

@[simp] theorem recordPart_length (body : RecordBody) : (recordBodyBytes body).2.length = 11 := by
  cases body <;> simp [recordBodyBytes]

/-- A duration below one second is the time value with that tick count. -/
theorem timeAt_of_small {ticks : Nat} (field : numAt off 8 bs = numAt 0 8 (durationBytes ticks))
    (range : ticks < 125000000) : timeAt off bs = ⟨0, ticks⟩ := by
  rw [timeAt_of_durationBytes field (Nat.lt_trans range (by decide)), ofLin_of_lt_second range]

theorem numAt_kindStateBytes (a : Attention) (k : AttnKind) :
    numAt k.idx.val 1 (kindStateBytes a) = (a.stateOf k).code.toNat := by
  have member : (kindStateBytes a)[k.idx.val]? = some (a.stateOf k).code := by
    rw [kindStateBytes, List.getElem?_map, Vector.getElem?_toList, Vector.getElem?_eq_getElem k.idx.isLt]
    rfl
  rw [← byteAt_eq_numAt, byteAt, List.getD_eq_getElem?_getD, member]
  rfl

/-- The bits of a kind set (Table 11.4). -/
theorem kindBits_testBit :
    ∀ (a b c d e f g : Bool) (i : Fin 7), (kindSetByte #v[a, b, c, d, e, f, g]).toNat.testBit i.val =
      #v[a, b, c, d, e, f, g][i] := by
  decide

theorem kindSetByte_testBit (v : Vector Bool 7) (i : Fin 7) : (kindSetByte v).toNat.testBit i.val = v[i] := by
  obtain ⟨⟨l⟩, length⟩ := v
  match l, length with
  | [a, b, c, d, e, f, g], _ => exact kindBits_testBit a b c d e f g i

theorem drop_append_beyond {xs ys : List Byte} (h : xs.length ≤ off) : (xs ++ ys).drop off = ys.drop (off - xs.length) := by
  rw [List.drop_append, List.drop_eq_nil_of_le h, List.nil_append]

theorem zeroFrom_of_drop {m : Nat} (rest : bs.drop off = List.replicate m 0#8) : zeroFrom off bs := by
  intro i beyond
  obtain ⟨k, rfl⟩ := Nat.exists_eq_add_of_le beyond
  rw [byteAt, List.getD_eq_getElem?_getD, ← List.getElem?_drop, rest, List.getElem?_replicate]
  split <;> rfl

end Fields

section Reports

/-! ## QUERY STATUS and QUERY TIME -/

theorem statusBytes_kind (s : State) (k : AttnKind) :
    byteAt (14 + k.idx.val) (statusBytes s) = (s.attn.stateOf k).code.toNat := by
  have split : statusBytes s =
      (beBytes 2 Config.partCode ++ beBytes 1 Config.revision
        ++ [s.link.startCause.code, s.ts.timeState.code, s.disc.state.code, pathCode s.disc.selected]
        ++ beBytes 2 s.ts.era.toNat ++ beBytes 1 s.sched.armed.length ++ beBytes 1 s.sched.allWaiting.length
        ++ beBytes 2 s.journal.records.length ++ [flagByte s.journal.overrun]) ++ (kindStateBytes s.attn ++
      ([kindSetByte s.attn.subscribed] ++ beBytes 1 s.link.totals.length ++ beBytes 1 s.link.totals.truncated
        ++ beBytes 1 s.link.totals.crc ++ beBytes 1 s.link.totals.overrun ++ [linkErrorCode s.link.lastError])) := by
    simp [statusBytes]
  rw [byteAt_eq_numAt, split, numAt_append_right (by simp), numAt_append_left (by simp)]
  refine Eq.trans (congrArg (fun off => numAt off 1 (kindStateBytes s.attn)) ?_) (numAt_kindStateBytes s.attn k)
  simp

/-- The fields of QUERY STATUS (Table 11.9). -/
theorem statusBytes_layout (s : State) :
    let b := statusBytes s
    b.length = 27 ∧ numAt 0 2 b = 0x0F48 ∧ byteAt 2 b = 1 ∧ byteAt 3 b = s.link.startCause.code.toNat ∧
    byteAt 4 b = s.ts.timeState.code.toNat ∧ byteAt 5 b = s.disc.state.code.toNat ∧
    byteAt 6 b = (pathCode s.disc.selected).toNat ∧ numAt 7 2 b = s.ts.era.toNat ∧
    (s.sched.armed.length ≤ 64 → byteAt 9 b = s.sched.armed.length) ∧
    (s.sched.allWaiting.length ≤ 64 → byteAt 10 b = s.sched.allWaiting.length) ∧
    (s.journal.records.length ≤ 256 → numAt 11 2 b = s.journal.records.length) ∧
    byteAt 13 b = s.journal.overrun.toNat ∧
    (∀ k : AttnKind, byteAt (14 + k.idx.val) b = (s.attn.stateOf k).code.toNat) ∧
    (∀ k : AttnKind, (byteAt 21 b).testBit k.idx.val = s.attn.isSubscribed k) ∧
    (s.link.totals.length ≤ 255 → byteAt 22 b = s.link.totals.length) ∧
    (s.link.totals.truncated ≤ 255 → byteAt 23 b = s.link.totals.truncated) ∧
    (s.link.totals.crc ≤ 255 → byteAt 24 b = s.link.totals.crc) ∧
    (s.link.totals.overrun ≤ 255 → byteAt 25 b = s.link.totals.overrun) ∧
    byteAt 26 b = (linkErrorCode s.link.lastError).toNat := by
  intro b
  have kinds : ∀ k : AttnKind, byteAt (14 + k.idx.val) b = (s.attn.stateOf k).code.toNat := statusBytes_kind s
  have subscription : byteAt 21 b = (kindSetByte s.attn.subscribed).toNat := by
    simp [b, byteAt_eq_numAt, statusBytes, numAt_append_right, numAt_cons]
  simp only [kinds, subscription, kindSetByte_testBit, byteAt_eq_numAt]
  simp [b, statusBytes, numAt_append_left, numAt_append_right, numAt_cons, Config.partCode, Config.revision,
    flagByte_toNat, Attention.isSubscribed]
  omega

/-- The fields of QUERY TIME (Table 11.9). -/
theorem timeReport_layout (s : State) :
    let b := timeReport s
    b.length = 42 ∧ (s.ts.now.Valid → timeAt 0 b = s.ts.now) ∧ byteAt 8 b = s.ts.timeState.code.toNat ∧
    numAt 9 2 b = s.ts.era.toNat ∧ byteAt 11 b = s.disc.state.code.toNat ∧
    byteAt 12 b = (pathCode s.disc.selected).toNat ∧ byteAt 13 b = s.ts.stagedLoad.isSome.toNat ∧
    (s.ts.stagedLoad = none → numAt 14 5 b = 0) ∧
    (∀ v, s.ts.stagedLoad = some v → v ≤ 137438953471 → numAt 14 5 b = v) ∧
    byteAt 19 b = (if s.ts.remainingSlew < 0 then 1 else 0) ∧
    (s.ts.remainingSlew.natAbs ≤ 62500000 → timeAt 20 b = ⟨0, s.ts.remainingSlew.natAbs⟩) ∧
    byteAt 28 b = (if s.ts.phaseOffset < 0 then 1 else 0) ∧
    (s.ts.phaseOffset.natAbs ≤ 62500000 → timeAt 29 b = ⟨0, s.ts.phaseOffset.natAbs⟩) ∧
    byteAt 37 b = (if s.disc.freqEstimate < 0 then 1 else 0) ∧
    (s.disc.freqEstimate.natAbs ≤ 100000 → numAt 38 4 b = s.disc.freqEstimate.natAbs) := by
  intro b
  have now : numAt 0 8 b = numAt 0 8 (timeBytes s.ts.now) := by simp [b, timeReport, numAt_append_left]
  have slew : numAt 20 8 b = numAt 0 8 (durationBytes s.ts.remainingSlew.natAbs) := by
    simp [b, timeReport, signedDuration, numAt_append_left, numAt_append_right, numAt_cons]
  have phase : numAt 29 8 b = numAt 0 8 (durationBytes s.ts.phaseOffset.natAbs) := by
    simp [b, timeReport, signedDuration, numAt_append_left, numAt_append_right, numAt_cons]
  have staged : numAt 14 5 b = s.ts.stagedLoad.getD 0 % 256 ^ 5 := by
    simp [b, timeReport, signedDuration, numAt_append_left, numAt_append_right, numAt_cons]
  have estimate : numAt 38 4 b = s.disc.freqEstimate.natAbs % 256 ^ 4 := by
    simp [b, timeReport, signedDuration, numAt_append_right, numAt_cons]
  refine ⟨by simp [b, timeReport, signedDuration], timeAt_of_timeBytes now, ?_, ?_, ?_, ?_, ?_, fun empty => ?_,
    fun v full range => ?_, ?_, fun range => timeAt_of_small slew (by omega), ?_,
    fun range => timeAt_of_small phase (by omega), ?_, fun range => by omega⟩
  case refine_6 => rw [staged, empty]; rfl
  case refine_7 => rw [staged, full]; exact Nat.mod_eq_of_lt (Nat.lt_of_le_of_lt range (by decide))
  all_goals
    simp [b, byteAt_eq_numAt, timeReport, signedDuration, numAt_append_left, numAt_append_right, numAt_cons,
      flagByte_toNat]
  omega

/-! ## QUERY PATHS and QUERY LINES -/

/-- The fields of a path block (section 11.7). -/
theorem pathBlock_layout (m : Monitor) (ok : MonitorOk m) :
    let b := pathBlock m
    b.length = 32 ∧ byteAt 0 b = m.state.code.toNat ∧ byteAt 1 b = m.config.rate.val ∧
    numAt 2 4 b = m.config.tolerance ∧ numAt 6 2 b = m.config.skewLimit ∧ byteAt 8 b = m.config.qualifyMarks ∧
    byteAt 9 b = m.config.recoverMarks ∧ byteAt 10 b = m.config.failFaults ∧
    byteAt 11 b = m.config.autoRestart.toNat ∧ numAt 12 2 b = m.config.holdOffSeconds ∧
    byteAt 14 b = m.cleanCount ∧ byteAt 15 b = m.suspectCount ∧ byteAt 16 b = m.totals.earlyStep ∧
    byteAt 17 b = m.totals.missingStep ∧ byteAt 18 b = m.totals.missingMark ∧ byteAt 19 b = m.totals.residue ∧
    byteAt 20 b = m.totals.rate ∧ byteAt 21 b = m.totals.skew ∧ byteAt 22 b = m.lastFault.isSome.toNat ∧
    (m.lastFault = none → byteAt 23 b = 0 ∧ timeAt 24 b = ⟨0, 0⟩) ∧
    (∀ f, m.lastFault = some f →
      byteAt 23 b = (faultCode (some f.kind)).toNat ∧ (f.stamp.Valid → timeAt 24 b = f.stamp)) := by
  intro b
  have fault : numAt 22 1 b = numAt 0 1 (lastFaultBytes m.lastFault) ∧
      numAt 23 1 b = numAt 1 1 (lastFaultBytes m.lastFault) ∧ numAt 24 8 b = numAt 2 8 (lastFaultBytes m.lastFault) := by
    simp [b, pathBlock, numAt_append_right, numAt_cons]
  obtain ⟨present, kind, stamp⟩ := fault
  have noFault : m.lastFault = none → byteAt 23 b = 0 ∧ timeAt 24 b = ⟨0, 0⟩ := fun none => by
    rw [none] at kind stamp
    rw [byteAt_eq_numAt, kind, timeAt_eq, stamp]
    exact ⟨rfl, by decide⟩
  have lastFault : ∀ f, m.lastFault = some f →
      byteAt 23 b = (faultCode (some f.kind)).toNat ∧ (f.stamp.Valid → timeAt 24 b = f.stamp) := fun f some => by
    rw [some] at kind stamp
    rw [byteAt_eq_numAt, kind]
    exact ⟨by simp [lastFaultBytes, numAt_cons], timeAt_of_timeBytes (stamp.trans (by simp [lastFaultBytes, numAt_cons]))⟩
  have isPresent : byteAt 22 b = m.lastFault.isSome.toNat := by
    rw [byteAt_eq_numAt, present]
    cases m.lastFault <;> simp [lastFaultBytes]
  have rate := m.config.rate.isLt
  have period : m.config.period / 4 ≤ 125000000 := Nat.le_trans (Nat.div_le_self _ _) (Nat.div_le_self _ _)
  obtain ⟨_, tolerance, _, skew, _, qualify, _, recover, _, fail, _, holdOff⟩ := m.config.inRange_iff.mp ok.config
  obtain ⟨clean, suspect⟩ := ok.counts
  obtain ⟨early, missing, mark, residue, rates, skews⟩ := ok.totals
  have tolerances : m.config.tolerance ≤ 125000000 := Nat.le_trans tolerance period
  refine ⟨by simp [b, pathBlock], ?_, ?_, ?_, ?_, ?_, ?_, ?_, ?_, ?_, ?_, ?_, ?_, ?_, ?_, ?_, ?_, ?_, isPresent, noFault,
    lastFault⟩
  all_goals
    simp [b, byteAt_eq_numAt, pathBlock, pathConfigBytes, numAt_append_left, numAt_append_right, numAt_cons,
      flagByte_toNat]
  all_goals omega

/-- A field within an output block of QUERY LINES. -/
theorem numAt_outputs (s : State) (i : Fin 8) {off n : Nat} (inside : off + n ≤ 8) :
    numAt (8 * i.val + off) n (linesReport s) = numAt off n (outputBlock s.lines[i]) := by
  have member : s.lines.toList[i.val]? = some s.lines[i] := by
    rw [Vector.getElem?_toList, Vector.getElem?_eq_getElem i.isLt]
    rfl
  have outputs := flatten_length outputBlock_length s.lines.toList
  rw [Vector.length_toList] at outputs
  rw [linesReport, numAt_append_left (by rw [outputs]; omega), numAt_flatten outputBlock_length member inside]

/-- A field within a capture block of QUERY LINES. -/
theorem numAt_captures (s : State) (i : Fin 4) {off n : Nat} (inside : off + n ≤ 12) :
    numAt (64 + 12 * i.val + off) n (linesReport s) = numAt off n (captureBlock s.caps[i]) := by
  have member : s.caps.toList[i.val]? = some s.caps[i] := by
    rw [Vector.getElem?_toList, Vector.getElem?_eq_getElem i.isLt]
    rfl
  have outputs := flatten_length outputBlock_length s.lines.toList
  rw [Vector.length_toList] at outputs
  have place : 64 + 12 * i.val + off - 8 * 8 = 12 * i.val + off := by omega
  rw [linesReport, numAt_append_right (by rw [outputs]; omega), outputs, place,
    numAt_flatten captureBlock_length member inside]

theorem linesReport_length (s : State) : (linesReport s).length = 112 := by
  rw [linesReport, List.length_append, flatten_length outputBlock_length, flatten_length captureBlock_length,
    Vector.length_toList, Vector.length_toList]

/-- The fields of an output block (section 11.7). -/
theorem outputBlock_layout (s : State) (i : Fin 8) :
    let b := linesReport s
    byteAt (8 * i.val) b = s.lines[i].mode.code.toNat ∧ byteAt (8 * i.val + 1) b = (levelCode s.lines[i].idle).toNat ∧
      byteAt (8 * i.val + 2) b = (levelCode s.lines[i].level).toNat ∧
      byteAt (8 * i.val + 3) b = s.lines[i].trailing.isSome.toNat ∧
      (s.lines[i].trailing = none → numAt (8 * i.val + 4) 4 b = 0) ∧
      (∀ left, s.lines[i].trailing = some left → left ≤ 125000000 → numAt (8 * i.val + 4) 4 b = left) := by
  intro b
  have left : numAt (8 * i.val + 4) 4 b = s.lines[i].trailing.getD 0 % 256 ^ 4 := by
    rw [numAt_outputs s i (by decide)]
    simp [outputBlock, numAt_cons]
  simp only [byteAt_eq_numAt]
  refine ⟨(numAt_outputs s i (off := 0) (by decide)).trans ?_, (numAt_outputs s i (by decide)).trans ?_,
    (numAt_outputs s i (by decide)).trans ?_, (numAt_outputs s i (by decide)).trans ?_, fun none => ?_,
    fun ticks some range => ?_⟩
  case refine_5 => rw [left, none]; rfl
  case refine_6 => rw [left, some]; exact Nat.mod_eq_of_lt (Nat.lt_of_le_of_lt range (by decide))
  all_goals simp [outputBlock, numAt_cons, flagByte_toNat]

/-- The fields of a capture block (section 11.7). -/
theorem captureBlock_layout (s : State) (i : Fin 4) :
    let b := linesReport s
    byteAt (64 + 12 * i.val) b = s.caps[i].select.code.toNat ∧
      (s.caps[i].deadTime ≤ 1250000 → timeAt (64 + 12 * i.val + 1) b = ⟨0, s.caps[i].deadTime⟩) ∧
      byteAt (64 + 12 * i.val + 9) b = s.caps[i].oneShot.toNat ∧
      byteAt (64 + 12 * i.val + 10) b = s.caps[i].record.toNat ∧
      byteAt (64 + 12 * i.val + 11) b = (levelCode s.caps[i].level).toNat := by
  intro b
  have dead : numAt (64 + 12 * i.val + 1) 8 b = numAt 0 8 (durationBytes s.caps[i].deadTime) := by
    rw [numAt_captures s i (by decide)]
    simp [captureBlock, captureConfigBytes, numAt_append_left, numAt_cons]
  simp only [byteAt_eq_numAt]
  refine ⟨(numAt_captures s i (off := 0) (by decide)).trans ?_, fun range => timeAt_of_small dead (by omega),
    (numAt_captures s i (by decide)).trans ?_, (numAt_captures s i (by decide)).trans ?_,
    (numAt_captures s i (by decide)).trans ?_⟩
  all_goals
    simp [captureBlock, captureConfigBytes, numAt_append_right, numAt_cons, flagByte_toNat]

end Reports

section Records

/-! ## The records (Tables 11.6 and 11.7) -/

theorem recordBytes_layout (r : Record) :
    (recordBytes r).length = 24 ∧ numAt 1 2 (recordBytes r) = r.seq.toNat ∧
      numAt 3 2 (recordBytes r) = r.era.toNat ∧ (r.stamp.Valid → timeAt 5 (recordBytes r) = r.stamp) := by
  have stamp : numAt 5 8 (recordBytes r) = numAt 0 8 (timeBytes r.stamp) := by
    simp [recordBytes, numAt_append_left, numAt_append_right, numAt_cons]
  refine ⟨by simp [recordBytes], ?_, ?_, timeAt_of_timeBytes stamp⟩
  all_goals
    simp [recordBytes, numAt_append_left, numAt_append_right, numAt_cons]
    omega

/-- A field of the kind part. -/
theorem numAt_recordPart (r : Record) {off n : Nat} :
    numAt (13 + off) n (recordBytes r) = numAt off n (recordBodyBytes r.body).2 := by
  have place : 13 + off - ([(recordBodyBytes r.body).1] ++ beBytes 2 r.seq.toNat ++ beBytes 2 r.era.toNat ++
      timeBytes r.stamp).length = off := by
    simp
  rw [recordBytes, numAt_append_right (by simp), place]

theorem recordBytes_kind (r : Record) : byteAt 0 (recordBytes r) = (recordBodyBytes r.body).1.toNat := rfl

theorem recordBytes_zeroFrom (r : Record) {off m : Nat}
    (spare : (recordBodyBytes r.body).2.drop off = List.replicate m 0#8) : zeroFrom (13 + off) (recordBytes r) := by
  refine zeroFrom_of_drop (m := m) ?_
  rw [recordBytes, drop_append_beyond (by simp)]
  refine Eq.trans (congrArg (fun k => (recordBodyBytes r.body).2.drop k) ?_) spare
  simp

theorem kindPart_layout (r : Record) : KindPartAt r.body (recordBytes r) := by
  have kind := recordBytes_kind r
  have field (off : Nat) : byteAt (13 + off) (recordBytes r) = numAt off 1 (recordBodyBytes r.body).2 := by
    rw [byteAt_eq_numAt, numAt_recordPart]
  have part {off n : Nat} := @numAt_recordPart r off n
  have zeros {off m : Nat} := @recordBytes_zeroFrom r off m
  cases body : r.body with
  | capture line edge timeState discState =>
    rw [body] at kind zeros field part
    refine ⟨kind, (field 0).trans ?_, (field 1).trans ?_, (field 2).trans ?_, (field 3).trans ?_, zeros (off := 4) (m := 7) rfl⟩
    all_goals simp [recordBodyBytes, numAt_cons]
    omega
  | fired handle line action late cut occurrence =>
    rw [body] at kind zeros field part
    refine ⟨kind, fun range => (part (off := 0)).trans ?_, (field 2).trans ?_, (field 3).trans ?_, (field 4).trans ?_,
      (field 5).trans ?_, fun range => (part (off := 6)).trans ?_, zeros (off := 8) (m := 3) (by simp [recordBodyBytes, drop_append_beyond])⟩
    all_goals simp [recordBodyBytes, numAt_append_left, numAt_append_right, numAt_cons, flagByte_toNat]
    all_goals omega
  | removed handle outcome occurrences =>
    rw [body] at kind zeros field part
    refine ⟨kind, fun range => (part (off := 0)).trans ?_, (field 2).trans ?_, fun range => (part (off := 3)).trans ?_,
      zeros (off := 5) (m := 6) (by simp [recordBodyBytes, drop_append_beyond])⟩
    all_goals simp [recordBodyBytes, numAt_append_left, numAt_append_right, numAt_cons]
    all_goals omega
  | era newEra cause =>
    rw [body] at kind zeros field part
    refine ⟨kind, (part (off := 0)).trans ?_, (field 2).trans ?_, zeros (off := 3) (m := 8) (by simp [recordBodyBytes, drop_append_beyond])⟩
    all_goals simp [recordBodyBytes, numAt_append_left, numAt_append_right]
    all_goals omega
  | path path old new fault selected =>
    rw [body] at kind zeros field part
    refine ⟨kind, (field 0).trans ?_, (field 1).trans ?_, (field 2).trans ?_, (field 3).trans ?_, (field 4).trans ?_,
      zeros (off := 5) (m := 6) rfl⟩
    all_goals simp [recordBodyBytes, numAt_cons, flagByte_toNat]
  | discipline old new selected =>
    rw [body] at kind zeros field part
    refine ⟨kind, (field 0).trans ?_, (field 1).trans ?_, (field 2).trans ?_, zeros (off := 3) (m := 8) rfl⟩
    all_goals simp [recordBodyBytes, numAt_cons]
  | gap missed first =>
    rw [body] at kind zeros field part
    refine ⟨kind, fun range => (part (off := 0)).trans ?_,
      timeAt_of_timeBytes ((part (off := 2)).trans ?_), zeros (off := 10) (m := 1) (by simp [recordBodyBytes, drop_append_beyond])⟩
    all_goals simp [recordBodyBytes, numAt_append_left, numAt_append_right]
    all_goals omega

/-- Settles O11, report by report. -/
theorem reportsHaveTheirLayout : Obligations.ReportsHaveTheirLayout := by
  refine ⟨by decide +kernel, by decide, fun n v => ⟨beBytes_length n v, fun range => ?_⟩, fun v => ⟨timeBytes_length v,
    timeAt_of_timeBytes rfl⟩, statusBytes_layout, timeReport_layout, pathBlock_layout,
    fun s => ⟨linesReport_length s, outputBlock_layout s, captureBlock_layout s⟩, fun r => ?_⟩
  · rw [beNat_beBytes, Nat.mod_eq_of_lt range]
  · obtain ⟨length, seq, era, stamp⟩ := recordBytes_layout r
    exact ⟨length, seq, era, stamp, kindPart_layout r⟩

end Records

end Sys2Proof.Machine

/-! PROOFS. WITHDRAW ENTRY and QUERY ENTRY, and the layout of an entry's report. -/

namespace Sys2Proof.Machine

section Finding

variable (c : Schedule) (handle : Nat)

theorem Schedule.holds_iff : c.holds handle = true ↔ ∃ e ∈ c.entries, e.desc.handle = handle := by
  simp [Schedule.holds]

/-- The entries of a schedule that does not hold a handle have others. -/
theorem Schedule.holds_eq_false_iff :
    c.holds handle = false ↔
      (∀ a ∈ c.armed, a.handle ≠ handle) ∧ ∀ e ∈ c.allWaiting, e.desc.handle ≠ handle := by
  rw [← Bool.not_eq_true, Schedule.holds_iff]
  simp only [Schedule.entries, List.mem_append, List.mem_map]
  constructor
  · exact fun unheld => ⟨fun a mem same => unheld ⟨a.entry, .inl ⟨a, mem, rfl⟩, same⟩,
      fun e mem same => unheld ⟨e, .inr mem, same⟩⟩
  · rintro ⟨armed, waiting⟩ ⟨e, ⟨a, mem, rfl⟩ | mem, same⟩
    · exact armed a mem same
    · exact waiting e mem same

/-- A handle is found exactly where an entry bears it (R74, R86). -/
theorem Schedule.find_eq_none_iff : c.find handle = none ↔ c.holds handle = false := by
  rw [Schedule.holds_eq_false_iff, Schedule.find]
  cases found : c.findArmed handle with
  | some a =>
    have named := List.find?_some found
    have armed := List.mem_of_find?_eq_some found
    exact ⟨nofun, fun ⟨unarmed, _⟩ => absurd (by simpa using named) (unarmed a armed)⟩
  | none =>
    have armed : ∀ a ∈ c.armed, a.handle ≠ handle := by simpa [Schedule.findArmed] using found
    simpa [Schedule.findWaiting] using fun _ => armed

theorem removeEntry_holds (s : State) (handle : Nat) : (removeEntry handle s).sched.holds handle = false := by
  rw [Schedule.holds, removeEntry_entries, List.any_filter]
  simp

theorem mem_removeEntry (s : State) {handle : Nat} {e : Entry} (other : e.desc.handle ≠ handle) :
    e ∈ (removeEntry handle s).sched.entries ↔ e ∈ s.sched.entries := by
  rw [removeEntry_entries, List.mem_filter]
  simp [other]

end Finding

section Layout

/-! ## An entry's report (Tables 11.5 and 11.9) -/

/-- The trigger fields of a descriptor (Table 11.5). -/
def Descriptor.triggerBytes (d : Descriptor) : List Byte :=
  match d.start with
  | .timed _ => [0#8, 0#8, 0#8]
  | .triggered line _ mode => [1#8, BitVec.ofNat 8 line.val, match mode with | .once => 0#8 | .every => 1#8]

/-- The width of a descriptor (Table 11.5). -/
def Descriptor.widthBytes (d : Descriptor) : List Byte :=
  match d.action with
  | .pulse w => durationBytes w
  | _ => durationBytes 0

/-- The first due time or the offset of a descriptor (Table 11.5). -/
def Descriptor.startBytes (d : Descriptor) : List Byte :=
  match d.start with
  | .timed first => timeBytes first
  | .triggered _ offset _ => durationBytes offset

/-- The repeat of a descriptor (Table 11.5). -/
def Descriptor.repBytes (d : Descriptor) : List Byte :=
  match d.rep with
  | some r => durationBytes r.period ++ beBytes 2 r.count
  | none => durationBytes 0 ++ beBytes 2 0

theorem descriptorBytes_eq (d : Descriptor) :
    descriptorBytes d =
      beBytes 2 d.handle ++ [BitVec.ofNat 8 d.line.val, d.action.code] ++ d.triggerBytes
        ++ [flagByte d.rep.isSome, (match d.latePolicy with | .fire => 0#8 | .skip => 1#8), flagByte d.reportFirings,
          flagByte d.reportRemoval, 0#8]
        ++ d.widthBytes ++ d.startBytes ++ d.repBytes := rfl

variable (d : Descriptor)

@[simp] theorem triggerBytes_length : d.triggerBytes.length = 3 := by
  unfold Descriptor.triggerBytes
  cases d.start <;> rfl

@[simp] theorem widthBytes_length : d.widthBytes.length = 8 := by
  unfold Descriptor.widthBytes
  cases d.action <;> exact durationBytes_length _

@[simp] theorem startBytes_length : d.startBytes.length = 8 := by
  unfold Descriptor.startBytes
  cases d.start <;> simp

@[simp] theorem repBytes_length : d.repBytes.length = 10 := by
  unfold Descriptor.repBytes
  cases d.rep <;> simp

@[simp] theorem descriptorBytes_length : (descriptorBytes d).length = 38 := by simp [descriptorBytes_eq]

/-- Where the parts of a descriptor stand (Table 11.5). -/
theorem descriptorBytes_parts (rest : List Byte) :
    let b := descriptorBytes d ++ rest
    numAt 4 1 b = numAt 0 1 d.triggerBytes ∧ numAt 5 1 b = numAt 1 1 d.triggerBytes ∧
      numAt 6 1 b = numAt 2 1 d.triggerBytes ∧ numAt 12 8 b = numAt 0 8 d.widthBytes ∧
      numAt 20 8 b = numAt 0 8 d.startBytes ∧ numAt 28 8 b = numAt 0 8 d.repBytes ∧
      numAt 36 2 b = numAt 8 2 d.repBytes := by
  simp [descriptorBytes_eq, numAt_append_left, numAt_append_right, numAt_cons]

theorem descriptorAt_descriptorBytes (rest : List Byte) : DescriptorAt d (descriptorBytes d ++ rest) := by
  obtain ⟨isTriggered, line, mode, width, start, period, count⟩ := descriptorBytes_parts d rest
  refine ⟨fun range => ?_, ?_, ?_, fun first timed => ?_, fun i offset trigger triggered => ?_, ?_, ?_, ?_, ?_, ?_,
    fun w pulse range => timeAt_of_durationBytes (width.trans ?_) range, fun none => ?_, fun q some => ?_, fun none => ?_⟩
  case refine_4 =>
    rw [byteAt_eq_numAt, byteAt_eq_numAt, byteAt_eq_numAt, isTriggered, line, mode]
    rw [Descriptor.startBytes, timed] at start
    rw [Descriptor.triggerBytes, timed]
    exact ⟨rfl, rfl, rfl, timeAt_of_timeBytes start⟩
  case refine_5 =>
    rw [byteAt_eq_numAt, byteAt_eq_numAt, byteAt_eq_numAt, isTriggered, line, mode]
    rw [Descriptor.startBytes, triggered] at start
    rw [Descriptor.triggerBytes, triggered]
    refine ⟨rfl, ?_, ?_, timeAt_of_durationBytes start⟩
    · simp [numAt_cons]
      omega
    · cases trigger <;> rfl
  case refine_11 => rw [Descriptor.widthBytes, pulse]
  case refine_12 =>
    have absent : d.widthBytes = durationBytes 0 := by
      unfold Descriptor.widthBytes
      cases action : d.action with
      | pulse w => exact absurd action (none w)
      | _ => rfl
    rw [absent] at width
    exact timeAt_of_small width (by decide)
  case refine_13 =>
    rw [Descriptor.repBytes, some] at period count
    refine ⟨timeAt_of_durationBytes (period.trans (by simp [numAt_append_left])), fun range => ?_⟩
    rw [count]
    simp [numAt_append_right]
    omega
  case refine_14 =>
    rw [Descriptor.repBytes, none] at period count
    refine ⟨timeAt_of_small (period.trans (by simp [numAt_append_left])) (by decide), ?_⟩
    rw [count]
    simp [numAt_append_right]
  case refine_7 =>
    rw [byteAt_eq_numAt]
    simp [descriptorBytes_eq, numAt_append_right, numAt_cons]
    cases d.latePolicy <;> rfl
  all_goals
    simp [byteAt_eq_numAt, descriptorBytes_eq, numAt_append_left, numAt_append_right, numAt_cons, flagByte_toNat]
  all_goals omega

/-- The bit of a part is set exactly where the part is present (section 11.7). -/
theorem partsPresent_presentParts : PartsPresent d (presentParts d).toNat := by
  obtain ⟨handle, line, action, start, rep, late, firings, removal⟩ := d
  rcases action with _ | _ | _ | w <;> rcases start with first | ⟨i, offset, mode⟩ <;> rcases rep with _ | q <;>
    simp [PartsPresent, presentParts] <;> decide

@[simp] theorem dueBytes_length (due : Option TimeValue) : (dueBytes due).length = 8 := timeBytes_length _

/-- The fields of an entry's report behind its descriptor (Table 11.9). -/
theorem entryReport_layout (e : Entry) (due : Option TimeValue) :
    let b := entryReport e due
    b.length = 56 ∧ DescriptorAt e.desc b ∧ PartsPresent e.desc (byteAt 38 b) ∧
      (due = none → byteAt 39 b = 1 ∧ timeAt 40 b = ⟨0, 0⟩) ∧
      (∀ v, due = some v → byteAt 39 b = 0 ∧ (v.Valid → timeAt 40 b = v)) ∧
      (e.remaining ≤ 65535 → numAt 48 2 b = e.remaining) ∧ (e.occurrences ≤ 65535 → numAt 50 2 b = e.occurrences) ∧
      numAt 52 4 b = e.admission % 2 ^ 32 := by
  intro b
  have split : b = descriptorBytes e.desc ++ ([presentParts e.desc, entryStateByte due] ++ dueBytes due ++
      beBytes 2 e.remaining ++ beBytes 2 e.occurrences ++ beBytes 4 e.number) := by
    simp [b, entryReport]
  have behind {off n : Nat} (beyond : 38 ≤ off) : numAt off n b = numAt (off - 38) n
      ([presentParts e.desc, entryStateByte due] ++ dueBytes due ++ beBytes 2 e.remaining ++ beBytes 2 e.occurrences ++
        beBytes 4 e.number) := by
    rw [split, numAt_append_right (by simpa using beyond), descriptorBytes_length]
  have parts : byteAt 38 b = (presentParts e.desc).toNat := by
    rw [byteAt_eq_numAt, behind (by decide)]
    simp
  have state : byteAt 39 b = (entryStateByte due).toNat := by
    rw [byteAt_eq_numAt, behind (by decide)]
    simp [numAt_cons]
  have stamp : numAt 40 8 b = numAt 0 8 (timeBytes (due.getD ⟨0, 0⟩)) := by
    rw [behind (by decide)]
    simp [numAt_cons, dueBytes, numAt_append_left]
  refine ⟨by rw [split]; simp, split ▸ descriptorAt_descriptorBytes e.desc _,
    parts ▸ partsPresent_presentParts e.desc, ?_, ?_, ?_⟩
  · rintro rfl
    exact ⟨state, timeAt_of_timeBytes stamp ⟨by decide, by decide⟩⟩
  · rintro v rfl
    exact ⟨state, timeAt_of_timeBytes stamp⟩
  · rw [behind (by decide), behind (by decide), behind (by decide)]
    simp [numAt_cons, numAt_append_left, numAt_append_right, Entry.number]
    omega

end Layout

section Requests

theorem readHandle_of_length {bs : List Byte} (length : bs.length = 2) : readHandle bs = some (beNat bs) := by
  rw [readHandle, if_pos length, ← length, numAt_whole]

theorem readHandle_none {bs : List Byte} (bad : bs.length ≠ 2) : readHandle bs = none := if_neg bad

/-- Settles O21, by the rule of a row that reads a handle. -/
theorem withdrawAndQueryEntry : Obligations.WithdrawAndQueryEntry := by
  refine ⟨fun s r head => ⟨fun kind => ?_, fun kind => ?_, fun handle => ?_⟩, entryReport_layout⟩
  · refine ⟨fun bad => malformed_of_unread rfl head (hasKind_of kind) (readHandle_none bad), fun length => ?_⟩
    have reads := readHandle_of_length length
    refine ⟨fun absent => answered_of_read rfl head (hasKind_of kind) reads ?_,
      fun e due found => answered_of_read rfl head (hasKind_of kind) reads ?_⟩
    · rw [withdraw, dequeueRequest_sched, absent]
      rfl
    · rw [withdraw, dequeueRequest_sched, found]
  · refine ⟨fun bad => malformed_of_unread rfl head (hasKind_of kind) (readHandle_none bad), fun length => ?_⟩
    have reads := readHandle_of_length length
    refine ⟨fun absent => answered_of_read rfl head (hasKind_of kind) reads ?_,
      fun e due found => answered_of_read rfl head (hasKind_of kind) reads ?_⟩
    · rw [queryEntry, dequeueRequest_sched, absent]
      rfl
    · rw [queryEntry, dequeueRequest_sched, found]
  · exact ⟨s.sched.find_eq_none_iff handle, removeEntry_holds s handle, rfl, fun e other => mem_removeEntry s other⟩

end Requests

end Sys2Proof.Machine

/-! PROOFS. The requests of the output lines and of the capture lines. -/

namespace Sys2Proof.Machine

section Codes

/-! ## Codes of the lines' requests (Table 11.4) -/

theorem lineModeOf_iff (n : Nat) (m : LineMode) : lineModeOf n = some m ↔ m.code.toNat = n := by
  rcases n with _ | _ | _ | n <;> cases m <;> simp [lineModeOf, LineMode.code]

theorem levelOf_iff (n : Nat) (l : Level) : levelOf n = some l ↔ (levelCode l).toNat = n := by
  rcases n with _ | _ | n <;> cases l <;> simp [levelOf, levelCode]

theorem edgeSelectOf_iff (n : Nat) (e : EdgeSelect) : edgeSelectOf n = some e ↔ e.code.toNat = n := by
  rcases n with _ | _ | _ | _ | n <;> cases e <;> simp [edgeSelectOf, EdgeSelect.code]

theorem lineMode_of_code {n : Nat} (range : n ≤ 2) : ∃ m : LineMode, m.code.toNat = n := by
  rcases (by omega : n = 0 ∨ n = 1 ∨ n = 2) with rfl | rfl | rfl
  · exact ⟨.off, rfl⟩
  · exact ⟨.scheduled, rfl⟩
  · exact ⟨.manual, rfl⟩

theorem level_of_code {n : Nat} (range : n ≤ 1) : ∃ l : Level, (levelCode l).toNat = n := by
  rcases (by omega : n = 0 ∨ n = 1) with rfl | rfl
  · exact ⟨.low, rfl⟩
  · exact ⟨.high, rfl⟩

theorem edgeSelect_of_code {n : Nat} (range : n ≤ 3) : ∃ e : EdgeSelect, e.code.toNat = n := by
  rcases (by omega : n = 0 ∨ n = 1 ∨ n = 2 ∨ n = 3) with rfl | rfl | rfl | rfl
  · exact ⟨.off, rfl⟩
  · exact ⟨.rise, rfl⟩
  · exact ⟨.fall, rfl⟩
  · exact ⟨.both, rfl⟩

theorem lineMode_code_le (m : LineMode) : m.code.toNat ≤ 2 := by cases m <;> decide

theorem levelCode_le (l : Level) : (levelCode l).toNat ≤ 1 := by cases l <;> decide

theorem edgeSelect_code_le (e : EdgeSelect) : e.code.toNat ≤ 3 := by cases e <;> decide

theorem readLineConfig_iff (bs : List Byte) (line : Nat) (mode : LineMode) (idle : Level) :
    readLineConfig bs = some (line, mode, idle) ↔
      bs.length = 3 ∧ byteAt 0 bs = line ∧ mode.code.toNat = byteAt 1 bs ∧ (levelCode idle).toNat = byteAt 2 bs := by
  by_cases length : bs.length = 3
  · simp only [readLineConfig, length, if_true, Option.bind_eq_bind, Option.bind_eq_some_iff, Option.some.injEq,
      Prod.mk.injEq, lineModeOf_iff, levelOf_iff, true_and]
    exact ⟨fun ⟨_, modes, _, levels, same, rfl, rfl⟩ => ⟨same, modes, levels⟩,
      fun ⟨same, modes, levels⟩ => ⟨mode, modes, idle, levels, same, rfl, rfl⟩⟩
  · simp [readLineConfig, length]

theorem readDriveLine_iff (bs : List Byte) (line : Nat) (level : Level) :
    readDriveLine bs = some (line, level) ↔
      bs.length = 2 ∧ byteAt 0 bs = line ∧ (levelCode level).toNat = byteAt 1 bs := by
  by_cases length : bs.length = 2
  · simp only [readDriveLine, length, if_true, Option.map_eq_some_iff, Prod.mk.injEq, levelOf_iff, true_and]
    exact ⟨fun ⟨_, levels, same, rfl⟩ => ⟨same, levels⟩, fun ⟨same, levels⟩ => ⟨level, levels, same, rfl⟩⟩
  · simp [readDriveLine, length]

theorem readCaptureConfig_iff (bs : List Byte) (line : Nat) (select : EdgeSelect) (dead : TimeValue)
    (oneShot record : Bool) :
    readCaptureConfig bs = some (line, select, dead, oneShot, record) ↔
      bs.length = 12 ∧ byteAt 0 bs = line ∧ select.code.toNat = byteAt 1 bs ∧ timeAt 2 bs = dead ∧
        byteAt 10 bs = oneShot.toNat ∧ byteAt 11 bs = record.toNat := by
  by_cases length : bs.length = 12
  · simp only [readCaptureConfig, length, if_true, Option.bind_eq_bind, Option.bind_eq_some_iff, Option.some.injEq,
      Prod.mk.injEq, edgeSelectOf_iff, flagOf_iff, true_and]
    exact ⟨fun ⟨_, selects, _, shots, _, records, same, eq, deads, shotEq, recordEq⟩ =>
        ⟨same, eq ▸ selects, deads, shotEq ▸ shots, recordEq ▸ records⟩,
      fun ⟨same, selects, deads, shots, records⟩ =>
        ⟨select, selects, oneShot, shots, record, records, same, rfl, deads, rfl, rfl⟩⟩
  · simp [readCaptureConfig, length]

theorem readLineConfig_none {bs : List Byte} (bad : bs.length ≠ 3 ∨ 2 < byteAt 1 bs ∨ 1 < byteAt 2 bs) :
    readLineConfig bs = none := by
  refine Option.eq_none_iff_forall_not_mem.mpr ?_
  rintro ⟨line, mode, idle⟩ reads
  obtain ⟨length, -, modes, levels⟩ := (readLineConfig_iff bs line mode idle).mp reads
  have modeRange := lineMode_code_le mode
  have levelRange := levelCode_le idle
  omega

theorem readDriveLine_none {bs : List Byte} (bad : bs.length ≠ 2 ∨ 1 < byteAt 1 bs) : readDriveLine bs = none := by
  refine Option.eq_none_iff_forall_not_mem.mpr ?_
  rintro ⟨line, level⟩ reads
  obtain ⟨length, -, levels⟩ := (readDriveLine_iff bs line level).mp reads
  have levelRange := levelCode_le level
  omega

theorem readCaptureConfig_none {bs : List Byte}
    (bad : bs.length ≠ 12 ∨ 3 < byteAt 1 bs ∨ 1 < byteAt 10 bs ∨ 1 < byteAt 11 bs) : readCaptureConfig bs = none := by
  refine Option.eq_none_iff_forall_not_mem.mpr ?_
  rintro ⟨line, select, dead, oneShot, record⟩ reads
  obtain ⟨length, -, selects, -, shots, records⟩ := (readCaptureConfig_iff bs _ _ _ _ _).mp reads
  have selectRange := edgeSelect_code_le select
  have shotRange := oneShot.toNat_le
  have recordRange := record.toNat_le
  omega

end Codes

section Requests

variable {s : State} {r : Request}

theorem targets_iff (c : Schedule) (i : Fin 8) : c.targets i = true ↔ ∃ e ∈ c.entries, e.desc.line = i := by
  simp [Schedule.targets]

/-- SET LINE CONFIG on a line that there is (R118). -/
theorem configureLine_eq (i : Fin 8) (mode : LineMode) (idle : Level) (s : State) :
    configureLine (i.val, mode, idle) s =
      if (mode ≠ s.lines[i].mode ∨ idle ≠ s.lines[i].idle) ∧ lineHeld i s = true then refuse .state s
      else (okReply [mode.code, levelCode idle, levelCode s.lines[i].level],
        setLine i ⟨mode, idle, s.lines[i].level, s.lines[i].trailing⟩ s) := by
  have changes : ({ s.lines[i] with mode := mode, idle := idle } : OutLine) ≠ s.lines[i] ↔
      mode ≠ s.lines[i].mode ∨ idle ≠ s.lines[i].idle := by
    cases s.lines[i]
    simp only [Ne, OutLine.mk.injEq, and_true]
    tauto
  refine (dif_pos i.isLt).trans ?_
  exact if_congr (and_congr changes Iff.rfl) rfl rfl

theorem lineRequest_setLineConfig (head : headRequest s = some r) (kind : r.kind = 0x10#8) {line : Nat} {mode : LineMode}
    {idle : Level} (reads : readLineConfig r.payload = some (line, mode, idle)) :
    (8 ≤ line → RefusedWith .setLineConfig r .range s) ∧
      (∀ i : Fin 8, i.val = line →
        let l := s.lines[i]
        let held := (∃ e ∈ s.sched.entries, e.desc.line = i) ∨ l.trailing.isSome = true
        ((mode ≠ l.mode ∨ idle ≠ l.idle) → held → RefusedWith .setLineConfig r .state s) ∧
          (((mode = l.mode ∧ idle = l.idle) ∨ ¬ held) →
            AnsweredWith .setLineConfig r (okReply [mode.code, levelCode idle, levelCode l.level])
              (setLine i ⟨mode, idle, l.level, l.trailing⟩ (dequeueRequest s)) s)) := by
  have answered {rep : Reply} {t : State} (done : configureLine (line, mode, idle) (dequeueRequest s) = (rep, t)) :
      AnsweredWith .setLineConfig r rep t s :=
    answered_of_read rfl head (hasKind_of kind) reads done
  refine ⟨fun beyond => answered (dif_neg (Nat.not_lt.mpr beyond)), fun i same => ?_⟩
  subst same
  intro l held
  have holds : lineHeld i (dequeueRequest s) = true ↔ held := by
    rw [lineHeld, Bool.or_eq_true, targets_iff]
    rfl
  have eq := configureLine_eq i mode idle (dequeueRequest s)
  exact ⟨fun changes isHeld => answered (eq.trans (if_pos ⟨changes, holds.mpr isHeld⟩)),
    fun free => answered (eq.trans (if_neg fun ⟨changes, isHeld⟩ =>
      free.elim (fun ⟨modes, idles⟩ => changes.elim (absurd modes) (absurd idles)) (absurd (holds.mp isHeld))))⟩

/-- The pin of a line that has a driver shows the level once the instant is over (R112). -/
theorem outPin_of_over {t : State} {i : Fin 8} (running : t.run = .running) (driven : t.lines[i].mode ≠ .off)
    (quiet : instantOver t = true) : outPin t i = some t.lines[i].level := by
  rw [outPin, if_pos ⟨running, driven⟩, if_pos quiet]

theorem running_of_head (head : headRequest s = some r) : s.run = .running := (headRequest_iff.mp head).1

theorem lineRequest_driveLine (head : headRequest s = some r) (kind : r.kind = 0x11#8) {line : Nat} {level : Level}
    (reads : readDriveLine r.payload = some (line, level)) :
    (8 ≤ line → RefusedWith .driveLine r .range s) ∧
      (∀ i : Fin 8, i.val = line →
        (s.lines[i].mode ≠ .manual → RefusedWith .driveLine r .state s) ∧
          (s.lines[i].mode = .manual →
            AnsweredWith .driveLine r (okReply [levelCode level])
                (setLine i { s.lines[i] with level := level } (dequeueRequest s)) s ∧
              ∀ t, exec .driveLine s = .next t → instantOver t = true → outPin t i = some level)) := by
  have answered {rep : Reply} {t : State} (done : driveLine (line, level) (dequeueRequest s) = (rep, t)) :
      AnsweredWith .driveLine r rep t s :=
    answered_of_read rfl head (hasKind_of kind) reads done
  refine ⟨fun beyond => answered (dif_neg (Nat.not_lt.mpr beyond)), fun i same => ?_⟩
  subst same
  refine ⟨fun other => answered ((dif_pos i.isLt).trans (if_neg other)), fun manual => ?_⟩
  have accepted : AnsweredWith .driveLine r (okReply [levelCode level])
      (setLine i { s.lines[i] with level := level } (dequeueRequest s)) s :=
    answered ((dif_pos i.isLt).trans (if_pos manual))
  refine ⟨accepted, fun t done quiet => ?_⟩
  have after := Host.Outcome.next.inj (done.symm.trans accepted)
  have driven : t.lines[i] = { s.lines[i] with level := level } := by
    rw [after]
    simp [setLine]
  have running : t.run = .running := by
    rw [after, answer_run]
    exact running_of_head (s := s) head
  rw [outPin_of_over running (by rw [driven, manual]; nofun) quiet, driven]

theorem lineRequest_setCaptureConfig (head : headRequest s = some r) (kind : r.kind = 0x13#8) {line : Nat}
    {select : EdgeSelect} {dead : TimeValue} {oneShot record : Bool}
    (reads : readCaptureConfig r.payload = some (line, select, dead, oneShot, record)) :
    (4 ≤ line ∨ dead.sec ≠ 0 ∨ 1250000 < dead.tick → RefusedWith .setCaptureConfig r .range s) ∧
      (∀ i : Fin 4, i.val = line → dead.sec = 0 → dead.tick ≤ 1250000 →
        let new : CapLine := ⟨select, dead.tick, oneShot, record, s.caps[i].timer, s.caps[i].level⟩
        AnsweredWith .setCaptureConfig r
          (okReply ([select.code] ++ timeBytes ⟨0, dead.tick⟩ ++ [flagByte oneShot, flagByte record]))
          (setCap i new (dequeueRequest s)) s) := by
  have answered {rep : Reply} {t : State}
      (done : configureCapture (line, select, dead, oneShot, record) (dequeueRequest s) = (rep, t)) :
      AnsweredWith .setCaptureConfig r rep t s :=
    answered_of_read rfl head (hasKind_of kind) reads done
  have short : deadTimeOk dead = true ↔ dead.sec = 0 ∧ dead.tick ≤ 1250000 := decide_eq_true_iff
  refine ⟨fun bad => answered ?_, fun i same seconds ticks => answered ?_⟩
  · unfold configureCapture
    split
    · exact if_neg fun ok => by
        obtain ⟨seconds, ticks⟩ := short.mp ok
        dsimp only at *
        omega
    · rfl
  · subst same
    have amount : dead.ticks = dead.tick := by rw [TimeValue.ticks, seconds, Nat.zero_mul, Nat.zero_add]
    have bytes : durationBytes dead.tick = timeBytes ⟨0, dead.tick⟩ := by
      rw [durationBytes, Nat.div_eq_of_lt (Nat.lt_of_le_of_lt ticks (by decide)),
        Nat.mod_eq_of_lt (Nat.lt_of_le_of_lt ticks (by decide))]
    refine (dif_pos i.isLt).trans ((if_pos (short.mpr ⟨seconds, ticks⟩)).trans ?_)
    dsimp only
    rw [amount, captureConfigBytes, bytes]
    rfl

/-- Settles O22, request by request. -/
theorem lineAndCaptureRequestsActOnTheirLine : Obligations.LineAndCaptureRequestsActOnTheirLine := by
  intro s r head
  refine ⟨fun kind => ⟨fun bad => malformed_of_unread rfl head (hasKind_of kind) (readLineConfig_none bad),
      fun length modes levels => ?_, fun line mode idle reads => lineRequest_setLineConfig head kind reads⟩,
    fun kind => ⟨fun bad => malformed_of_unread rfl head (hasKind_of kind) (readDriveLine_none bad),
      fun length levels => ?_, fun line level reads => lineRequest_driveLine head kind reads⟩,
    fun kind => ⟨fun bad => malformed_of_unread rfl head (hasKind_of kind) (readCaptureConfig_none bad),
      fun length selects shots records => ?_,
      fun line select dead oneShot record reads => lineRequest_setCaptureConfig head kind reads⟩⟩
  · obtain ⟨mode, modeCode⟩ := lineMode_of_code modes
    obtain ⟨idle, idleCode⟩ := level_of_code levels
    exact ⟨mode, idle, (readLineConfig_iff _ _ _ _).mpr ⟨length, rfl, modeCode, idleCode⟩, modeCode, idleCode⟩
  · obtain ⟨level, code⟩ := level_of_code levels
    exact ⟨level, (readDriveLine_iff _ _ _).mpr ⟨length, rfl, code⟩, code⟩
  · obtain ⟨select, code⟩ := edgeSelect_of_code selects
    have oneShot := (flagOf_iff _ _).mp (flagOf_some shots)
    have record := (flagOf_iff _ _).mp (flagOf_some records)
    exact ⟨select, _, _, (readCaptureConfig_iff _ _ _ _ _ _).mpr ⟨length, rfl, code, rfl, oneShot, record⟩, code,
      oneShot.symm, record.symm⟩

end Requests

end Sys2Proof.Machine

/-! PROOFS. The requests of the attention unit. -/

namespace Sys2Proof.Machine

section Codes

theorem kindSetOf_some {n : Nat} (range : n ≤ 127) :
    ∃ set, kindSetOf n = some set ∧ ∀ k : AttnKind, set[k.idx] = n.testBit k.idx.val := by
  refine ⟨_, if_pos (Nat.lt_succ_of_le range), fun k => ?_⟩
  cases k <;> rfl

theorem kindSetOf_none {n : Nat} (beyond : 127 < n) : kindSetOf n = none := if_neg (by omega)

theorem readAttention_none {bs : List Byte} (bad : bs.length ≠ 3 ∨ 127 < byteAt 0 bs) : readAttention bs = none := by
  unfold readAttention
  split
  · rename_i length
    rw [kindSetOf_none (bad.resolve_left (absurd length)), Option.map_none]
  · rfl

theorem readKindSet_none {bs : List Byte} (bad : bs.length ≠ 1 ∨ 127 < byteAt 0 bs) : readKindSet bs = none := by
  unfold readKindSet
  split
  · rename_i length
    exact kindSetOf_none (bad.resolve_left (absurd length))
  · rfl

theorem readAttention_some {bs : List Byte} (length : bs.length = 3) (range : byteAt 0 bs ≤ 127) :
    ∃ set, readAttention bs = some (set, numAt 1 2 bs) ∧
      ∀ k : AttnKind, set[k.idx] = (byteAt 0 bs).testBit k.idx.val := by
  obtain ⟨set, named, bits⟩ := kindSetOf_some range
  exact ⟨set, by rw [readAttention, if_pos length, named, Option.map_some], bits⟩

theorem readKindSet_some {bs : List Byte} (length : bs.length = 1) (range : byteAt 0 bs ≤ 127) :
    ∃ set, readKindSet bs = some set ∧ ∀ k : AttnKind, set[k.idx] = (byteAt 0 bs).testBit k.idx.val := by
  obtain ⟨set, named, bits⟩ := kindSetOf_some range
  exact ⟨set, by rw [readKindSet, if_pos length, named], bits⟩

end Codes

section Notices

variable {s t u : State} {a b : Prop}

/-! ## Work that changes at most the kinds and queues at most one NOTICE -/

/-- At most the attention unit and the outbound queue differ. -/
def KindWork (s t : State) : Prop :=
  t = { s with attn := t.attn, link := { s.link with outbound := t.link.outbound } }

theorem KindWork.refl (s : State) : KindWork s s := rfl

theorem KindWork.trans (first : KindWork s t) (second : KindWork t u) : KindWork s u := by
  unfold KindWork at *
  calc u = { t with attn := u.attn, link := { t.link with outbound := u.link.outbound } } := second
    _ = { s with attn := u.attn, link := { s.link with outbound := u.link.outbound } } := by rw [first]

theorem raise_kindWork (k : AttnKind) : KindWork s (raise k s) := by
  unfold KindWork
  rw [raise_eq]

theorem judgeNotice_kindWork : KindWork s (judgeNotice s) := by
  unfold KindWork
  rcases judgeNotice_cases s with e | ⟨_, _, e⟩ <;> rw [e]
  rfl

@[simp] theorem judgeNotice_attn (s : State) : (judgeNotice s).attn = s.attn := by
  rcases judgeNotice_cases s with e | ⟨_, _, e⟩ <;> rw [e]
  rfl

theorem judgeThreshold_kindWork (old : Nat) : KindWork s (judgeThreshold old s) := by
  rcases judgeThreshold_cases old s with e | e <;> rw [e]
  · exact .refl s
  · exact raise_kindWork _

/-- One NOTICE joins the tail of the outbound queue where it is called for and its place is free, and nothing else (R156). -/
def NoticeIfCalled (calls : Prop) (l m : Link) : Prop :=
  (calls → noticePlaceFree l = true → m.outbound = l.outbound ++ [.notice]) ∧
    (¬ calls ∨ noticePlaceFree l = false → m.outbound = l.outbound)

theorem noticePlaceFree_congr {l m : Link} (same : m.outbound = l.outbound) : noticePlaceFree m = noticePlaceFree l := by
  rw [noticePlaceFree, noticePlaceFree, same]

theorem noticePlaceFree_of_notice {l : Link} {queue : List OutFrame} (queued : l.outbound = queue ++ [.notice]) :
    noticePlaceFree l = false := by
  rw [noticePlaceFree, queued, List.any_append]
  simp [OutFrame.isOwn]

/-- Two calls in a row queue one NOTICE between them. -/
theorem NoticeIfCalled.trans {l m n : Link} (first : NoticeIfCalled a l m) (second : NoticeIfCalled b m n) :
    NoticeIfCalled (a ∨ b) l n := by
  refine ⟨fun calls free => ?_, fun quiet => ?_⟩
  · by_cases firstCalls : a
    · have queued := first.1 firstCalls free
      rw [second.2 (.inr (noticePlaceFree_of_notice queued)), queued]
    · have same := first.2 (.inl firstCalls)
      rw [second.1 (calls.resolve_left firstCalls) (noticePlaceFree_congr same ▸ free), same]
  · have same := first.2 (quiet.imp_left fun none firstCalls => none (.inl firstCalls))
    rw [second.2 (quiet.imp (fun none secondCalls => none (.inr secondCalls)) fun full =>
      (noticePlaceFree_congr same).trans full), same]

theorem NoticeIfCalled.of_same {l m : Link} (none : ¬ a) (same : m.outbound = l.outbound) : NoticeIfCalled a l m :=
  ⟨fun calls => absurd calls none, fun _ => same⟩

theorem raise_noticeIfCalled (k : AttnKind) (s : State) :
    NoticeIfCalled (s.attn.stateOf k = .quiet ∧ s.attn.isSubscribed k = true) s.link (raise k s).link := by
  rw [raise_link, queueAfterRaise]
  refine ⟨fun calls free => if_pos ⟨calls.1, calls.2, by simpa [noticePlaceFree] using free⟩, fun quiet => if_neg ?_⟩
  rintro ⟨state, subscribed, free⟩
  rcases quiet with none | full
  · exact none ⟨state, subscribed⟩
  · rw [noticePlaceFree, free] at full
    cases full

theorem judgeNotice_noticeIfCalled (s : State) :
    NoticeIfCalled (s.attn.toNotify.any id = true) s.link (judgeNotice s).link := by
  unfold judgeNotice
  refine ⟨fun calls free => ?_, fun quiet => ?_⟩
  · rw [if_pos (by rw [calls, free]; rfl)]
    rfl
  · rw [if_neg]
    rw [Bool.and_eq_true]
    rintro ⟨calls, free⟩
    rcases quiet with none | full
    · exact none calls
    · rw [free] at full
      cases full

end Notices

section Attention

variable {s : State} {r : Request}

/-! ## SET ATTENTION (R160) -/

/-- A lower threshold finds the fill at or above it, and JOURNAL_LEVEL not yet raised (R148). -/
def LevelRaised (s : State) (threshold : Nat) : Prop :=
  s.journal.records.length < s.journal.threshold ∧ threshold ≤ s.journal.records.length ∧
    s.attn.stateOf .journalLevel = .quiet


/-- What SET ATTENTION leaves (R148, R160). -/
def resubscribed (set : Vector Bool 7) (threshold : Nat) (s : State) : State :=
  let judged := judgeThreshold s.journal.threshold (subscribe set threshold s)
  if (newlyRaised s.attn.subscribed judged.attn).any id then judgeNotice judged else judged

theorem setAttention_eq (set : Vector Bool 7) (threshold : Nat) (s : State) :
    setAttention (set, threshold) s =
      if 1 ≤ threshold ∧ threshold ≤ 256 then
        (okReply (kindSetByte set :: (beBytes 2 threshold ++ kindStateBytes (resubscribed set threshold s).attn)),
          resubscribed set threshold s)
      else refuse .range s := rfl

variable (s) (set : Vector Bool 7) (threshold : Nat)

theorem resubscribed_kindWork : KindWork (subscribe set threshold s) (resubscribed set threshold s) := by
  unfold resubscribed
  dsimp only
  split
  · exact (judgeThreshold_kindWork _).trans judgeNotice_kindWork
  · exact judgeThreshold_kindWork _

theorem resubscribed_attn :
    (resubscribed set threshold s).attn =
      (judgeThreshold s.journal.threshold (subscribe set threshold s)).attn := by
  unfold resubscribed
  dsimp only
  split
  · exact judgeNotice_attn _
  · rfl

theorem judgeThreshold_stateOf (k : AttnKind) :
    (judgeThreshold s.journal.threshold (subscribe set threshold s)).attn.stateOf k =
      if k = .journalLevel ∧ s.journal.records.length < s.journal.threshold ∧ threshold ≤ s.journal.records.length then
        (s.attn.stateOf k).whenRaised
      else s.attn.stateOf k := by
  have judged : judgeThreshold s.journal.threshold (subscribe set threshold s) =
      if s.journal.records.length < s.journal.threshold ∧ threshold ≤ s.journal.records.length then
        raise .journalLevel (subscribe set threshold s)
      else subscribe set threshold s := rfl
  rw [judged]
  by_cases lower : s.journal.records.length < s.journal.threshold ∧ threshold ≤ s.journal.records.length
  · rw [if_pos lower]
    by_cases level : k = .journalLevel
    · rw [if_pos ⟨level, lower⟩, level]
      exact raise_own _ _
    · rw [if_neg fun both => level both.1]
      exact raise_other _ (Ne.symm level)
  · rw [if_neg lower, if_neg fun both => lower both.2]
    rfl

theorem judgeThreshold_noticeIfCalled :
    NoticeIfCalled (LevelRaised s threshold ∧ set[AttnKind.journalLevel.idx] = true) s.link
      (judgeThreshold s.journal.threshold (subscribe set threshold s)).link := by
  have judged : judgeThreshold s.journal.threshold (subscribe set threshold s) =
      if s.journal.records.length < s.journal.threshold ∧ threshold ≤ s.journal.records.length then
        raise .journalLevel (subscribe set threshold s)
      else subscribe set threshold s := rfl
  rw [judged]
  by_cases lower : s.journal.records.length < s.journal.threshold ∧ threshold ≤ s.journal.records.length
  · rw [if_pos lower]
    obtain ⟨queued, kept⟩ := raise_noticeIfCalled .journalLevel (subscribe set threshold s)
    exact ⟨fun ⟨⟨_, _, state⟩, named⟩ => queued ⟨state, named⟩,
      fun quiet => kept (quiet.imp_left fun none ⟨state, named⟩ => none ⟨⟨lower.1, lower.2, state⟩, named⟩)⟩
  · rw [if_neg lower]
    exact .of_same (fun ⟨⟨below, reached, _⟩, _⟩ => lower ⟨below, reached⟩) rfl

theorem judgeThreshold_subscribed :
    (judgeThreshold s.journal.threshold (subscribe set threshold s)).attn.subscribed = set := by
  rcases judgeThreshold_cases s.journal.threshold (subscribe set threshold s) with e | e <;> rw [e]
  · rfl
  · exact raise_subscribed _ _

theorem resubscribed_subscribed : (resubscribed set threshold s).attn.subscribed = set := by
  rw [resubscribed_attn, judgeThreshold_subscribed]

/-- A kind that is RAISED and newly subscribed calls for a NOTICE (R160). -/
def NewlyCalled (s t : State) : Prop :=
  ∃ k, t.attn.stateOf k = .raised ∧ t.attn.isSubscribed k = true ∧ s.attn.isSubscribed k = false

theorem newlyRaised_iff (judged : State) :
    (newlyRaised s.attn.subscribed judged.attn).any id = true ↔ NewlyCalled s judged := by
  rw [newlyRaised_any]
  exact ⟨fun ⟨k, was, now, state⟩ => ⟨k, state, now, was⟩, fun ⟨k, state, now, was⟩ => ⟨k, was, now, state⟩⟩

theorem resubscribed_noticeIfCalled :
    NoticeIfCalled
      ((LevelRaised s threshold ∧ (resubscribed set threshold s).attn.isSubscribed .journalLevel = true) ∨
        NewlyCalled s (resubscribed set threshold s))
      s.link (resubscribed set threshold s).link := by
  have level : (resubscribed set threshold s).attn.isSubscribed .journalLevel = set[AttnKind.journalLevel.idx] := by
    rw [Attention.isSubscribed, resubscribed_subscribed]
  rw [level]
  refine (judgeThreshold_noticeIfCalled s set threshold).trans ?_
  unfold NewlyCalled
  rw [resubscribed_attn]
  have newly := newlyRaised_iff s (judgeThreshold s.journal.threshold (subscribe set threshold s))
  unfold resubscribed
  dsimp only
  split
  · rename_i called
    obtain ⟨queued, kept⟩ := judgeNotice_noticeIfCalled (judgeThreshold s.journal.threshold (subscribe set threshold s))
    obtain ⟨k, state, subscribed, _⟩ := newly.mp called
    have calls := (toNotify_any _).mpr ⟨k, subscribed, state⟩
    exact ⟨fun _ => queued calls, fun quiet => kept (quiet.imp_left fun none _ => none (newly.mp called))⟩
  · rename_i quiet
    exact .of_same (mt newly.mpr quiet) rfl

theorem resubscribed_notice (called : NewlyCalled s (resubscribed set threshold s)) :
    noticePlaceFree (resubscribed set threshold s).link = false := by
  have judged := called
  unfold NewlyCalled at judged
  rw [resubscribed_attn] at judged
  have newly := (newlyRaised_iff s _).mpr judged
  have done : resubscribed set threshold s =
      judgeNotice (judgeThreshold s.journal.threshold (subscribe set threshold s)) := if_pos newly
  obtain ⟨k, state, subscribed, _⟩ := called
  have calls := (toNotify_any _).mpr ⟨k, subscribed, state⟩
  rw [done] at calls ⊢
  exact judgeNotice_noticeOk _ calls

/-! ## ACK ATTENTION (R158) -/

theorem quietKinds_stateOf (k : AttnKind) :
    (quietKinds set s).attn.stateOf k = if set[k.idx] = true then .quiet else s.attn.stateOf k := by
  simp [quietKinds, Attention.stateOf]

/-- What ACK ATTENTION leaves. -/
def acknowledged (set : Vector Bool 7) (s : State) : State :=
  if set[AttnKind.journalLevel.idx] = true ∧ s.journal.threshold ≤ s.journal.records.length then
    raise .journalLevel (quietKinds set s)
  else quietKinds set s

theorem acknowledge_eq :
    acknowledge set s =
      (okReply (kindStateBytes (acknowledged set s).attn ++ [kindSetByte (acknowledged set s).attn.subscribed]),
        acknowledged set s) := rfl

theorem acknowledged_kindWork : KindWork s (acknowledged set s) := by
  have quiet : KindWork s (quietKinds set s) := rfl
  unfold acknowledged
  split
  · exact quiet.trans (raise_kindWork _)
  · exact quiet

theorem acknowledged_subscribed : (acknowledged set s).attn.subscribed = s.attn.subscribed := by
  unfold acknowledged
  split
  · exact raise_subscribed _ _
  · rfl

theorem acknowledged_other {k : AttnKind} (other : k ≠ .journalLevel) :
    (acknowledged set s).attn.stateOf k = if set[k.idx] = true then .quiet else s.attn.stateOf k := by
  rw [← quietKinds_stateOf]
  unfold acknowledged
  split
  · exact raise_other _ (Ne.symm other)
  · rfl

theorem acknowledged_level :
    (acknowledged set s).attn.stateOf .journalLevel =
      if set[AttnKind.journalLevel.idx] = true then
        if s.journal.threshold ≤ s.journal.records.length then .raised else .quiet
      else s.attn.stateOf .journalLevel := by
  have quiet := quietKinds_stateOf s set .journalLevel
  unfold acknowledged
  by_cases named : set[AttnKind.journalLevel.idx] = true
  · rw [if_pos named] at quiet ⊢
    by_cases filled : s.journal.threshold ≤ s.journal.records.length
    · rw [if_pos ⟨named, filled⟩, if_pos filled, raise_own, quiet]
      rfl
    · rw [if_neg fun both => filled both.2, if_neg filled, quiet]
  · rw [if_neg named] at quiet ⊢
    rw [if_neg fun both => named both.1, quiet]

theorem acknowledged_noticeIfCalled :
    NoticeIfCalled
      (set[AttnKind.journalLevel.idx] = true ∧ s.journal.threshold ≤ s.journal.records.length ∧
        s.attn.isSubscribed .journalLevel = true)
      s.link (acknowledged set s).link := by
  have quiet := quietKinds_stateOf s set .journalLevel
  unfold acknowledged
  by_cases again : set[AttnKind.journalLevel.idx] = true ∧ s.journal.threshold ≤ s.journal.records.length
  · rw [if_pos again]
    rw [if_pos again.1] at quiet
    obtain ⟨queued, kept⟩ := raise_noticeIfCalled .journalLevel (quietKinds set s)
    exact ⟨fun ⟨_, _, subscribed⟩ => queued ⟨quiet, subscribed⟩,
      fun calm => kept (calm.imp_left fun none ⟨_, subscribed⟩ => none ⟨again.1, again.2, subscribed⟩)⟩
  · rw [if_neg again]
    exact .of_same (fun ⟨named, filled, _⟩ => again ⟨named, filled⟩) rfl

variable {s set threshold}

theorem setAttention_answers (head : headRequest s = some r) (kind : r.kind = 0x15#8)
    (reads : readAttention r.payload = some (set, threshold)) (least : 1 ≤ threshold) (most : threshold ≤ 256) :
    AnsweredWith .setAttention r
      (okReply (kindSetByte set :: (beBytes 2 threshold ++
        kindStateBytes (resubscribed set threshold (dequeueRequest s)).attn)))
      (resubscribed set threshold (dequeueRequest s)) s :=
  answered_of_read rfl head (hasKind_of kind) reads ((setAttention_eq _ _ _).trans (if_pos ⟨least, most⟩))

/-- Settles O25, by the one NOTICE that a raise and a new subscription queue between them. -/
theorem attentionRequestsSubscribeAndQuiet : Obligations.AttentionRequestsSubscribeAndQuiet := by
  intro s r head
  refine ⟨fun kind => ⟨fun bad => malformed_of_unread rfl head (hasKind_of kind) (readAttention_none bad),
      readAttention_some, fun set threshold reads => ⟨fun outside => ?_, fun least most => ?_⟩⟩,
    fun kind => ⟨fun bad => malformed_of_unread rfl head (hasKind_of kind) (readKindSet_none bad),
      readKindSet_some, fun set reads => ?_⟩⟩
  · exact answered_of_read rfl head (hasKind_of kind) reads
      ((setAttention_eq _ _ _).trans (if_neg fun ⟨least, most⟩ => by omega))
  · have states := judgeThreshold_stateOf (dequeueRequest s) set threshold
    rw [← resubscribed_attn] at states
    obtain ⟨queued, kept⟩ := resubscribed_noticeIfCalled (dequeueRequest s) set threshold
    refine ⟨resubscribed set threshold (dequeueRequest s), setAttention_answers head kind reads least most,
      resubscribed_kindWork _ _ _, resubscribed_subscribed _ _ _, fun k other => ?_, fun below reached quiet => ?_,
      fun unmoved => ?_, fun k state now was => resubscribed_notice _ _ _ ⟨k, state, now, was⟩, ?_⟩
    · exact (states k).trans (if_neg fun both => other both.1)
    · refine (states _).trans ((if_pos ⟨rfl, below, reached⟩).trans ?_)
      exact if_pos quiet
    · rw [states]
      split
      · rename_i moved
        exact if_neg (unmoved.elim (fun above => absurd moved.2.1 (Nat.not_lt.mpr above)) fun rest =>
          rest.elim (fun short => absurd moved.2.2 (Nat.not_le.mpr short)) id)
      · rfl
    · exact ⟨queued, kept⟩
  · have done := acknowledge_eq (dequeueRequest s) set
    rw [acknowledged_subscribed] at done
    obtain ⟨queued, kept⟩ := acknowledged_noticeIfCalled (dequeueRequest s) set
    refine ⟨acknowledged set (dequeueRequest s), answered_of_read rfl head (hasKind_of kind) reads done,
      acknowledged_kindWork _ _, acknowledged_subscribed _ _, fun k unnamed => ?_, fun k named other => ?_,
      fun named => ?_, fun again => ?_, fun calm => ?_⟩
    · by_cases level : k = .journalLevel
      · subst level
        exact (acknowledged_level _ _).trans (if_neg (by rw [unnamed]; nofun))
      · exact (acknowledged_other _ _ level).trans (if_neg (by rw [unnamed]; nofun))
    · exact (acknowledged_other _ _ other).trans (if_pos named)
    · exact (acknowledged_level _ _).trans (if_pos named)
    · obtain ⟨named, filled, subscribed, free⟩ := again
      exact queued ⟨named, filled, subscribed⟩ free
    · refine kept ?_
      by_cases free : noticePlaceFree s.link = true
      · exact .inl fun ⟨named, filled, subscribed⟩ => calm ⟨named, filled, subscribed, free⟩
      · exact .inr (Bool.eq_false_iff.mpr free)

end Attention

end Sys2Proof.Machine

/-! PROOFS. The link controller: replies, the receiver, the acceptance of a frame, breaks and the transmitter. -/

namespace Sys2Proof.Machine

section Events

variable {s : State}

/-- An event that does not happen changes nothing. -/
theorem event_absent {happens : Bool} (effect : State → State) (absent : happens = false) :
    event happens effect s = .next s := by
  unfold event
  rw [if_neg fun both => by rw [absent] at both; exact nomatch both.2]

end Events

section Replies

/-! ## The reply and the cache (R174 to R176) -/

theorem pushCache_room {cache : List CacheEntry} (e : CacheEntry) (room : cache.length < 4) :
    pushCache e cache = cache ++ [e] := by
  rw [pushCache, if_pos room]

theorem pushCache_full {oldest : CacheEntry} {kept : List CacheEntry} (e : CacheEntry) (full : kept.length = 3) :
    pushCache e (oldest :: kept) = kept ++ [e] := by
  rw [pushCache, if_neg (by rw [List.length_cons, full]; decide), List.tail_cons]

theorem replyKind_catalogue {kind : Byte} (least : 1 ≤ kind.toNat) (most : kind.toNat ≤ 22) :
    (replyKind kind).toNat = kind.toNat + 128 := by
  have listed : inCatalogue kind = true := decide_eq_true ⟨least, most⟩
  rw [replyKind, if_pos listed, BitVec.toNat_add]
  exact Nat.mod_eq_of_lt (by rw [show (0x80#8).toNat = 128 from rfl]; omega)

theorem inCatalogue_false {kind : Byte} (outside : kind.toNat = 0 ∨ 22 < kind.toNat) : inCatalogue kind = false :=
  decide_eq_false fun ⟨least, most⟩ => by omega

theorem replyKind_unknown {kind : Byte} (outside : kind.toNat = 0 ∨ 22 < kind.toNat) : replyKind kind = 0x80#8 := by
  rw [replyKind, inCatalogue_false outside]
  rfl

/-- Settles O27, by the law of taking a request and the two cases of the cache. -/
theorem repliesAreQueuedAndCached : Obligations.RepliesAreQueuedAndCached := by
  refine ⟨fun c r rep t s answered => ?_, fun kind => ⟨replyKind_catalogue, replyKind_unknown⟩,
    fun s r head outside => ⟨?_, ?_⟩⟩
  · intro frame
    refine ⟨pushCache ⟨r.kind, r.seq, r.crc, frame⟩ t.link.cache, answered, pushCache_room _, fun oldest kept cache full => ?_⟩
    rw [cache, pushCache_full _ full]
  · exact answeredWith_of_take s (accepts := fun r => !inCatalogue r.kind) (owner := unknownReply) rfl head
      (by rw [inCatalogue_false outside]; rfl) rfl
  · rw [replyFrame, replyKind_unknown outside]
    rfl

end Replies

section Receiver

variable {s : State}

/-! ## The receiver (R165, R166, R169) -/

theorem loseFrame_lost (cause : LinkError) (s : State) : LostFrame cause s (loseFrame cause s) := by
  have link := raise_link { s with link := { s.link with totals := s.link.totals.bump cause, lastError := some cause } }
    .link
  refine ⟨congrArg Link.totals link, congrArg Link.lastError link, raise_own _ _, raise_subscribed _ _,
    fun k other => raise_other _ (Ne.symm other), ?_⟩
  unfold loseFrame
  rw [raise_eq, link]

theorem lengthOk_iff (b : Byte) : lengthOk b = true ↔ 2 ≤ b.toNat ∧ b.toNat ≤ 242 := decide_eq_true_iff

theorem receive_hunt_sync (hunts : s.link.rx = .hunt) : receive 0x9D#8 s = setReceiver .length [] s := by
  unfold receive
  rw [hunts]
  exact if_pos rfl

theorem receive_hunt_other (hunts : s.link.rx = .hunt) {b : Byte} (other : b ≠ 0x9D#8) : receive b s = s := by
  unfold receive
  rw [hunts]
  exact if_neg other

theorem receive_length_ok (judges : s.link.rx = .length) {b : Byte} (ok : 2 ≤ b.toNat ∧ b.toNat ≤ 242) :
    receive b s = setReceiver .body [b] s := by
  unfold receive
  rw [judges]
  exact if_pos ((lengthOk_iff b).mpr ok)

theorem receive_length_bad (judges : s.link.rx = .length) {b : Byte} (bad : ¬ (2 ≤ b.toNat ∧ b.toNat ≤ 242)) :
    receive b s = loseFrame .length (toHunt s) := by
  unfold receive
  rw [judges]
  exact if_neg (mt (lengthOk_iff b).mp bad)

/-- A byte of the body completes the frame, or is collected. -/
theorem receive_body (collects : s.link.rx = .body) (b : Byte) :
    receive b s =
      if (s.link.rxBytes ++ [b]).length < byteAt 0 (s.link.rxBytes ++ [b]) + 3 then
        setReceiver .body (s.link.rxBytes ++ [b]) s
      else checkFrame (s.link.rxBytes ++ [b]) s := by
  unfold receive
  rw [collects]
  rfl

/-- Settles O28, state by state of the receiver. -/
theorem receiverTakesBytes : Obligations.ReceiverTakesBytes := by
  refine ⟨fun totals => ⟨rfl, rfl, rfl, rfl⟩, fun s b running => ⟨fun breaks => ?_, fun clear => ?_⟩⟩
  · exact event_absent _ (by rw [breaks]; rfl)
  have taken {t : State} (received : receive b s = t) : exec (.byteReceived b) s = .next t :=
    (event_of s (!s.link.inBreak) (receive b) running (by rw [clear]; rfl)).trans (congrArg _ received)
  refine ⟨fun hunts sync => ?_, fun hunts other => taken (receive_hunt_other hunts other),
    fun judges least most => taken (receive_length_ok judges ⟨least, most⟩), fun judges bad => ?_,
    fun len rest collects bytes short => ?_, fun within => ?_⟩
  · exact taken (sync ▸ receive_hunt_sync hunts)
  · have outside : ¬ (2 ≤ b.toNat ∧ b.toNat ≤ 242) := by omega
    have lost := receive_length_bad judges outside
    refine ⟨_, ?_, taken lost, loseFrame_lost _ _⟩
    have wrong : lengthOk b = false := Bool.eq_false_iff.mpr (mt (lengthOk_iff b).mp outside)
    exact (event_of s _ (receive b) running (by rw [clear, judges, wrong]; rfl)).trans (congrArg _ lost)
  · refine taken ((receive_body collects b).trans ?_)
    rw [bytes]
    refine if_pos ?_
    rw [List.length_append, List.length_cons]
    show rest.length + 1 + 1 < len.toNat + 3
    omega
  · refine ⟨_, event_of s (!s.link.inBreak && (decide (s.link.rx = .length) || decide (s.link.rx = .body)))
      (fun t => loseFrame .truncated (toHunt t)) running ?_, loseFrame_lost _ _⟩
    rcases within with rx | rx <;> rw [clear, rx] <;> rfl

/-! ## A whole frame (R167) -/

theorem bytes_of_frame {kind seq : Byte} {payload : List Byte} {bytes : List Byte}
    (frame : mkFrame kind seq payload = 0x9D#8 :: bytes) :
    bytes = (BitVec.ofNat 8 (payload.length + 2) :: kind :: seq :: payload) ++
      beBytes 2 (crcOf (BitVec.ofNat 8 (payload.length + 2) :: kind :: seq :: payload)).toNat :=
  (List.cons.inj frame).2.symm

/-- The bytes from LEN on of the frame of a KIND, a SEQ and a payload spell exactly that request. -/
theorem checkFrame_of_frame {kind seq : Byte} {payload bytes : List Byte} (short : payload.length ≤ 240)
    (frame : mkFrame kind seq payload = 0x9D#8 :: bytes) :
    bytes.length = byteAt 0 bytes + 3 ∧
      checkFrame bytes s =
        acceptFrame ⟨kind, seq, crcOf (BitVec.ofNat 8 (payload.length + 2) :: kind :: seq :: payload), payload⟩
          (toHunt s) := by
  rw [bytes_of_frame frame]
  generalize crc : crcOf (BitVec.ofNat 8 (payload.length + 2) :: kind :: seq :: payload) = word
  have len : byteAt 0 ((BitVec.ofNat 8 (payload.length + 2) :: kind :: seq :: payload) ++ beBytes 2 word.toNat) =
      payload.length + 2 := by
    show (BitVec.ofNat 8 (payload.length + 2)).toNat = _
    rw [BitVec.toNat_ofNat]
    omega
  have covered : coveredBytes ((BitVec.ofNat 8 (payload.length + 2) :: kind :: seq :: payload) ++ beBytes 2 word.toNat) =
      BitVec.ofNat 8 (payload.length + 2) :: kind :: seq :: payload := by
    rw [coveredBytes, len]
    exact List.take_left' (by simp)
  have carried : carriedCrc ((BitVec.ofNat 8 (payload.length + 2) :: kind :: seq :: payload) ++ beBytes 2 word.toNat) =
      word := by
    rw [carriedCrc, len, numAt_append_right (by simp)]
    simp [Nat.mod_eq_of_lt word.isLt]
  refine ⟨by rw [len]; simp, ?_⟩
  rw [checkFrame, covered, carried, if_pos crc, requestOf, covered, carried]
  rfl

theorem lastByteNext_of {l : Link} {last : Byte} (collects : l.rx = .body) (long : 2 ≤ (l.rxBytes ++ [last]).length)
    (whole : (l.rxBytes ++ [last]).length = byteAt 0 (l.rxBytes ++ [last]) + 3) : lastByteNext l = true := by
  obtain ⟨len, init, bytes⟩ := List.exists_cons_of_length_pos (l := l.rxBytes) (by
    rw [List.length_append, List.length_singleton] at long
    omega)
  rw [lastByteNext, collects, bytes]
  rw [bytes, List.length_append, List.length_singleton] at whole
  have same : byteAt 0 (len :: init ++ [last]) = byteAt 0 (len :: init) := rfl
  rw [same] at whole
  rw [Bool.and_eq_true, decide_eq_true_iff, decide_eq_true_iff]
  exact ⟨rfl, Nat.le_of_eq whole.symm⟩

theorem frameReceived_taken (running : s.run = .running) (clear : s.link.inBreak = false) (collects : s.link.rx = .body)
    {last : Byte} (whole : (s.link.rxBytes ++ [last]).length = byteAt 0 (s.link.rxBytes ++ [last]) + 3) :
    exec (.frameReceived last) s = .next (checkFrame (s.link.rxBytes ++ [last]) s) := by
  have next := lastByteNext_of collects (by omega) whole
  refine (event_of s _ (receive last) running (by rw [clear, next]; rfl)).trans ?_
  rw [receive_body collects, if_neg (by omega)]

/-! ## The five cases of a frame that has passed its check (R170) -/

theorem repeats_iff (kind seq : Byte) (crc : Half) (r : Request) :
    repeats kind seq crc r = true ↔ r.kind = kind ∧ r.seq = seq ∧ r.crc = crc := by
  simp [repeats, and_assoc]

/-- The reply on receipt finds a place, or the frame is lost with cause OVERRUN. -/
theorem replyOnReceipt_answers (frame : List Byte) (s : State) :
    (placesUsed s.link < 11 → replyOnReceipt frame s = queueFrame (.reply .onReceipt frame) s) ∧
      (¬ placesUsed s.link < 11 → LostFrame .overrun s (replyOnReceipt frame s)) := by
  refine ⟨fun free => if_pos free, fun full => ?_⟩
  rw [replyOnReceipt, if_neg full]
  exact loseFrame_lost _ _

/-- A frame that waits in no queue is judged by the cache and the places. -/
theorem acceptFrame_judged {r : Request} (notPending : s.link.partPending = false)
    (unqueued : s.link.requests.any (repeats r.kind r.seq r.crc) = false) :
    acceptFrame r s =
      match cachedReply r s.link with
      | some e => replyOnReceipt e.frame s
      | none =>
        if 4 ≤ s.link.requests.length then replyOnReceipt (replyFrame r.kind r.seq (plainReply .busy)) s
        else if placesUsed s.link < 11 then queueRequest r s
        else loseFrame .overrun s := by
  unfold acceptFrame
  exact (if_neg (by rw [notPending]; nofun)).trans (if_neg (by rw [unqueued]; nofun))

theorem cachedReply_none {r : Request} (uncached : ¬ ∃ e ∈ s.link.cache, e.kind = r.kind ∧ e.seq = r.seq ∧ e.crc = r.crc) :
    cachedReply r s.link = none := by
  refine List.find?_eq_none.mpr fun e mem same => uncached ⟨e, mem, ?_⟩
  obtain ⟨kind, seq, crc⟩ := (repeats_iff _ _ _ _).mp same
  exact ⟨kind.symm, seq.symm, crc.symm⟩

theorem cachedReply_some {r : Request} (cached : ∃ e ∈ s.link.cache, e.kind = r.kind ∧ e.seq = r.seq ∧ e.crc = r.crc) :
    ∃ e ∈ s.link.cache, e.kind = r.kind ∧ e.seq = r.seq ∧ e.crc = r.crc ∧ cachedReply r s.link = some e := by
  obtain ⟨first, mem, kind, seq, crc⟩ := cached
  have some : (cachedReply r s.link).isSome = true :=
    List.find?_isSome.mpr ⟨first, mem, (repeats_iff _ _ _ _).mpr ⟨kind.symm, seq.symm, crc.symm⟩⟩
  obtain ⟨e, found⟩ := Option.isSome_iff_exists.mp some
  have search : s.link.cache.find? (fun e => repeats e.kind e.seq e.crc r) = Option.some e := found
  have named : repeats e.kind e.seq e.crc r = true := by simpa using List.find?_some search
  obtain ⟨kind, seq, crc⟩ := (repeats_iff _ _ _ _).mp named
  exact ⟨e, List.mem_of_find?_eq_some search, kind.symm, seq.symm, crc.symm, found⟩

/-- Settles O29, by the bytes of a frame and the five cases of its acceptance. -/
theorem frameReceivedIsCheckedAndAccepted : Obligations.FrameReceivedIsCheckedAndAccepted := by
  refine ⟨fun s last running clear collects => ⟨fun len rest bytes length apart => ?_,
    fun kind seq payload short frame => ?_⟩, fun s r => ?_⟩
  · have whole : (s.link.rxBytes ++ [last]).length = byteAt 0 (s.link.rxBytes ++ [last]) + 3 := by
      rw [bytes, List.length_cons, length]
      rfl
    refine ⟨_, (frameReceived_taken running clear collects whole).trans ?_, loseFrame_lost .crc (toHunt s)⟩
    rw [bytes, checkFrame]
    exact congrArg _ (if_neg apart)
  · obtain ⟨whole, accepted⟩ := checkFrame_of_frame (s := s) short frame
    exact (frameReceived_taken running clear collects whole).trans (congrArg _ accepted)
  · intro queued cached free
    refine ⟨fun pending => if_pos pending, fun notPending => ?_⟩
    have queuedIff : s.link.requests.any (repeats r.kind r.seq r.crc) = true ↔ queued := by
      simp only [List.any_eq_true, repeats_iff]
      rfl
    have judged (unqueued : ¬ queued) := acceptFrame_judged (r := r) notPending
      (Bool.eq_false_iff.mpr (mt queuedIff.mp unqueued))
    refine ⟨fun waits => ?_, fun unqueued known => ?_, fun unqueued unknown full => ?_, fun unqueued unknown room => ?_⟩
    · rw [acceptFrame, if_neg (by rw [notPending]; nofun), if_pos (queuedIff.mpr waits)]
    · obtain ⟨e, mem, kind, seq, crc, found⟩ := cachedReply_some known
      have replied := judged unqueued
      rw [found] at replied
      obtain ⟨fits, lost⟩ := replyOnReceipt_answers e.frame s
      exact ⟨fun place => ⟨e, mem, kind, seq, crc, replied.trans (fits place)⟩, fun none => replied ▸ lost none⟩
    · have replied := judged unqueued
      rw [cachedReply_none unknown] at replied
      have busy := replied.trans (if_pos full)
      obtain ⟨fits, lost⟩ := replyOnReceipt_answers (replyFrame r.kind r.seq (plainReply .busy)) s
      exact ⟨fun place => busy.trans (fits place), fun none => busy ▸ lost none⟩
    · have replied := judged unqueued
      rw [cachedReply_none unknown] at replied
      have entered := replied.trans (if_neg (Nat.not_le.mpr room))
      exact ⟨fun place => entered.trans (if_pos place),
        fun none => (entered.trans (if_neg none)) ▸ loseFrame_lost .overrun s⟩

end Receiver

end Sys2Proof.Machine

/-! PROOFS. Breaks and the transmitter. -/

namespace Sys2Proof.Machine

section Breaks

variable {s : State}

/-! ## Breaks (R168, R180) -/

/-- At a link reset every NOTIFIED kind becomes RAISED (R161). -/
theorem renotify_stateOf (s : State) (k : AttnKind) :
    (renotify s).attn.stateOf k = if s.attn.stateOf k = .notified then .raised else s.attn.stateOf k := by
  exact mapVec_getElem (fun st => if st = AttnState.notified then .raised else st) s.attn.states k.idx.val k.idx.isLt

/-- Settles O31, by the one link reset of a break. -/
theorem breakResetsTheLink : Obligations.BreakResetsTheLink := by
  intro pins s running
  refine ⟨fun clear notPending => ⟨linkReset s, ?_, rfl, rfl, renotify_stateOf _⟩, fun breaks => ⟨?_, ?_⟩, fun clear => ?_⟩
  · refine (event_of s (!s.link.inBreak) (fun t => if t.link.partPending then breakWhilePending pins t else linkReset t)
      running (by rw [clear]; rfl)).trans ?_
    rw [if_neg (by rw [notPending]; nofun)]
  · exact event_absent (happens := !s.link.inBreak)
      (fun t => if t.link.partPending then breakWhilePending pins t else linkReset t) (by rw [breaks]; rfl)
  · exact event_of s s.link.inBreak endBreak running breaks
  · exact event_absent _ clear

end Breaks

section Transmitter

variable {s : State}

/-! ## The transmitter (R164, R157, R181) -/

theorem notifyRaised_stateOf (s : State) (k : AttnKind) :
    (notifyRaised s).attn.stateOf k =
      if s.attn.isSubscribed k = true ∧ s.attn.stateOf k = .raised then .notified else s.attn.stateOf k := by
  refine (zipVec_getElem (fun st sub => if sub && decide (st = AttnState.raised) then AttnState.notified else st)
    s.attn.states s.attn.subscribed k.idx.val k.idx.isLt).trans ?_
  exact if_congr (by rw [Bool.and_eq_true, decide_eq_true_iff]; rfl) rfl rfl

/-- Once the RAISED kinds are NOTIFIED none is left to notify. -/
theorem notifyRaised_toNotify (s : State) : (notifyRaised s).attn.toNotify.any id = false := by
  rw [Bool.eq_false_iff, Ne, toNotify_any]
  rintro ⟨k, subscribed, raised⟩
  rw [notifyRaised_stateOf] at raised
  split at raised
  · cases raised
  · rename_i unmoved
    exact unmoved ⟨subscribed, raised⟩

/-- Notifying leaves every kind QUIET or not QUIET as it was. -/
theorem notifyRaised_outstanding (s : State) : (notifyRaised s).attn.outstanding = s.attn.outstanding := by
  refine Vector.ext fun i inside => ?_
  simp only [Attention.outstanding, notifyRaised, setKinds_attn, mapVec_getElem, zipVec_getElem]
  split
  · rename_i moved
    obtain ⟨_, raised⟩ := Bool.and_eq_true_iff.mp moved
    rw [of_decide_eq_true raised]
    rfl
  · rfl

theorem judgeNotice_of_none (none : s.attn.toNotify.any id = false) : judgeNotice s = s := by
  rw [judgeNotice, none]
  rfl

theorem beginHead_reply {origin : ReplyOrigin} {frame : List Byte} {rest : List OutFrame}
    (head : s.link.outbound = .reply origin frame :: rest) :
    beginHead s = beginFrame rest frame (decide (origin = .partReset)) s := by
  unfold beginHead
  rw [head]

theorem beginHead_notice {rest : List OutFrame} (head : s.link.outbound = .notice :: rest) :
    beginHead s =
      beginOwn rest 0x40#8 (noticePayload s.attn.toNotify (notifyRaised s)) (notifyRaised s) := by
  unfold beginHead
  rw [head]
  exact judgeNotice_of_none (notifyRaised_toNotify s)

theorem beginHead_announce {cause : AnnounceCause} {rest : List OutFrame}
    (head : s.link.outbound = .announce cause :: rest) :
    beginHead s = judgeNotice (beginOwn rest 0x41#8 (announcePayload cause s) s) := by
  unfold beginHead
  rw [head]

theorem transmitStart (running : s.run = .running) (idle : s.link.tx = none) (clear : s.link.inBreak = false)
    (waits : s.link.outbound ≠ []) : exec .frameTransmitStart s = .next (beginHead s) :=
  event_of s (canBegin s.link) beginHead running ((canBegin_iff s.link).mpr ⟨idle, clear, waits⟩)

theorem transmitStart_announce {cause : AnnounceCause} {rest : List OutFrame}
    (head : s.link.outbound = .announce cause :: rest) :
    beginHead s =
      { s with link :=
        { s.link with
          outbound :=
            if s.attn.toNotify.any id && !(rest.any OutFrame.isOwn) then rest ++ [.notice] else rest
          unsolicitedSeq := s.link.unsolicitedSeq + 1
          tx := some
            ⟨mkFrame 0x41#8 s.link.unsolicitedSeq
                ([cause.code, 0x0F#8, 0x48#8, 0x01#8, s.ts.timeState.code] ++ beBytes 2 s.ts.era.toNat),
              false, false⟩ } } := by
  have payload : announcePayload cause s =
      [cause.code, 0x0F#8, 0x48#8, 0x01#8, s.ts.timeState.code] ++ beBytes 2 s.ts.era.toNat := rfl
  rw [beginHead_announce head, payload]
  have judged : judgeNotice (beginOwn rest 0x41#8
      ([cause.code, 0x0F#8, 0x48#8, 0x01#8, s.ts.timeState.code] ++ beBytes 2 s.ts.era.toNat) s) =
      if s.attn.toNotify.any id && !(rest.any OutFrame.isOwn) then
        queueFrame .notice (beginOwn rest 0x41#8
          ([cause.code, 0x0F#8, 0x48#8, 0x01#8, s.ts.timeState.code] ++ beBytes 2 s.ts.era.toNat) s)
      else beginOwn rest 0x41#8
          ([cause.code, 0x0F#8, 0x48#8, 0x01#8, s.ts.timeState.code] ++ beBytes 2 s.ts.era.toNat) s := rfl
  rw [judged]
  split <;> rfl

/-- Settles O32, frame by frame of the outbound queue. -/
theorem transmitterSendsTheQueue : Obligations.TransmitterSendsTheQueue := by
  refine ⟨fun s running idle clear => ⟨fun origin frame rest head => ?_, fun rest head => ?_, fun cause rest head => ?_⟩,
    fun pins s frame running => ?_⟩
  · rw [transmitStart running idle clear (by rw [head]; nofun), beginHead_reply head]
    rfl
  · refine ⟨_, (transmitStart running idle clear (by rw [head]; nofun)).trans (congrArg _ (beginHead_notice head)), ?_,
      rfl, notifyRaised_stateOf s⟩
    have payload : noticePayload s.attn.toNotify (notifyRaised s) =
        [kindSetByte s.attn.toNotify, kindSetByte s.attn.outstanding, s.ts.timeState.code, s.disc.state.code]
          ++ beBytes 2 s.ts.era.toNat ++ beBytes 2 s.journal.records.length := by
      rw [noticePayload, notifyRaised_outstanding]
      rfl
    rw [payload]
    rfl
  · rw [transmitStart running idle clear (by rw [head]; nofun), transmitStart_announce head]
  · intro idled
    refine ⟨fun sends => ⟨fun still => ?_, fun waits clear => ?_⟩, fun stops => ?_⟩
    · have ended : exec (.frameTransmitEnd pins) s = .next (endFrame pins s) :=
        event_of s (isSending false s.link) (endFrame pins) running (by rw [isSending, sends]; rfl)
      have notPart : sendingPartReply s.link = false := by rw [sendingPartReply, sends]
      have none : ¬ canBegin (idleTransmitter s).link = true := fun begins => by
        obtain ⟨_, clear, waits⟩ := (canBegin_iff _).mp begins
        exact still.elim (fun empty => waits empty) fun breaks => by
          rw [show (idleTransmitter s).link.inBreak = s.link.inBreak from rfl, breaks] at clear
          cases clear
      rw [ended, endFrame, if_neg (by rw [notPart]; nofun)]
      exact congrArg _ (if_neg none)
    · have ended : exec (.frameTransmitEnd pins) s = .next (endFrame pins s) :=
        event_of s (isSending false s.link) (endFrame pins) running (by rw [isSending, sends]; rfl)
      have notPart : sendingPartReply s.link = false := by rw [sendingPartReply, sends]
      have begins : canBegin (idleTransmitter s).link = true := (canBegin_iff _).mpr ⟨rfl, clear, waits⟩
      rw [ended, endFrame, if_neg (by rw [notPart]; nofun), transmitStart (s := idled) running rfl clear waits]
      exact congrArg _ (if_pos begins)
    · have stopped : exec (.transmitterStops pins) s = .next (stopTransmitter pins s) :=
        event_of s (isSending true s.link) (stopTransmitter pins) running (by rw [isSending, stops]; rfl)
      have notPart : sendingPartReply s.link = false := by rw [sendingPartReply, stops]
      rw [stopped, stopTransmitter, if_neg (by rw [notPart]; nofun)]
      rfl

end Transmitter

end Sys2Proof.Machine

/-! PROOFS. One tick, the ends of the small timers, and the second boundary. -/

namespace Sys2Proof.Machine

section Timers

/-- Settles O35, by the rule of an event. -/
theorem holdPulseAndDeadTimeEnd : Obligations.HoldPulseAndDeadTimeEnd := by
  intro s running
  exact ⟨fun ended => event_of s (holdDue s) (fun t => setTs { t.ts with hold := none } t) running (decide_eq_true ended),
    fun i ended => event_of s (trailingDue i s) (endPulse i) running (decide_eq_true ended),
    fun i other => event_absent (happens := trailingDue i s) (endPulse i) (decide_eq_false other),
    fun i ended => event_of s (deadTimeDue i s) (setCap i { s.caps[i] with timer := none }) running (decide_eq_true ended),
    fun i other => event_absent (happens := deadTimeDue i s) (setCap i { s.caps[i] with timer := none })
      (decide_eq_false other)⟩

end Timers

section Ticks

variable (s : State)

/-! ## One tick (R1, R12, R17) -/

/-- An advance by less than a second moves the time and, at a wrap, the laps. -/
theorem advanceBy_eq (ticks : Nat) :
    advanceBy ticks s = { s with ts := (advanceBy ticks s).ts, sched := (advanceBy ticks s).sched } := by
  unfold advanceBy
  dsimp only
  split
  · rfl
  · split <;> rfl

theorem advanceBy_within {ticks : Nat} (within : s.ts.now.tick + ticks < 125000000) :
    advanceBy ticks s = setTs { s.ts with now := ⟨s.ts.now.sec, s.ts.now.tick + ticks⟩ } s := if_pos within

/-- The timescale after an advance that passes tick count 124,999,999. -/
theorem advanceBy_wrap_ts {ticks : Nat} (wraps : 125000000 ≤ s.ts.now.tick + ticks) :
    (advanceBy ticks s).ts =
      { s.ts with
        now := ⟨(s.ts.now.sec + 1) % 2 ^ 37, s.ts.now.tick + ticks - 125000000⟩
        boundaryDue := true } := by
  unfold advanceBy
  dsimp only
  rw [if_neg (Nat.not_lt.mpr wraps)]
  split <;> rfl

/-- The laps count down at the wrap of the seconds count alone (R93). -/
theorem advanceBy_wrap_sched {ticks : Nat} (wraps : 125000000 ≤ s.ts.now.tick + ticks) :
    (advanceBy ticks s).sched =
      if 137438953471 ≤ s.ts.now.sec then
        { s.sched with armed := s.sched.armed.map fun a => { a with lap := a.lap - 1 } }
      else s.sched := by
  unfold advanceBy
  dsimp only
  rw [if_neg (Nat.not_lt.mpr wraps)]
  by_cases round : 137438953471 ≤ s.ts.now.sec
  · rw [if_pos round, if_pos (Nat.succ_le_succ round)]
    rfl
  · rw [if_neg round, if_neg fun h => round (Nat.le_of_succ_le_succ h)]
    rfl

/-- How far the time advances at a tick that no hold stops. -/
def stepTicks (s : State) : Nat := if anchored s then 1 else s.ts.freeRun.advance s.ts.now.tick

/-- The adjustments made once such a tick has passed. -/
def doneAfter (s : State) : Nat :=
  if anchored s then s.ts.freeRun.done
  else if s.ts.freeRun.adjusts s.ts.now.tick then s.ts.freeRun.done + 1 else s.ts.freeRun.done

/-- The state in which the time advances: an adjustment that falls at the tick is counted. -/
def adjustmentCounted (s : State) : State :=
  setTs { s.ts with freeRun := { s.ts.freeRun with done := doneAfter s } } s

theorem tickTimescale_free (free : s.ts.hold = none) :
    tickTimescale s = advanceBy (stepTicks s) (adjustmentCounted s) := by
  unfold tickTimescale stepTicks adjustmentCounted doneAfter
  rw [free]
  dsimp only
  split <;> rfl

theorem tickTimescale_held {left : Nat} (held : s.ts.hold = some left) :
    tickTimescale s = setTs { s.ts with hold := some (left - 1) } s := by
  unfold tickTimescale
  rw [held]

theorem tickTimescale_eq :
    tickTimescale s = { s with ts := (tickTimescale s).ts, sched := (tickTimescale s).sched } := by
  cases hold : s.ts.hold with
  | none =>
    rw [tickTimescale_free s hold, advanceBy_eq]
    rfl
  | some left =>
    rw [tickTimescale_held s hold]
    rfl

theorem anchored_false_iff : anchored s = false ↔ ¬ (s.disc.state = .locked ∧ s.ts.switchPending = false) := by
  rw [← anchored_iff, Bool.not_eq_true]

theorem adjusts_iff (r : FreeRun) (tick : Nat) :
    r.adjusts tick = true ↔ r.done < r.count.natAbs ∧ r.nextAt ≤ tick := by
  rw [FreeRun.adjusts, Bool.and_eq_true, decide_eq_true_iff, decide_eq_true_iff]

/-- At an adjustment the time advances by two or by none, and otherwise by one (R12). -/
theorem stepTicks_unique {ticks done : Nat}
    (plain : (s.disc.state = .locked ∧ s.ts.switchPending = false) ∨
        s.ts.freeRun.count.natAbs ≤ s.ts.freeRun.done ∨ s.ts.now.tick < s.ts.freeRun.nextAt →
      ticks = 1 ∧ done = s.ts.freeRun.done)
    (adjusted : ¬ (s.disc.state = .locked ∧ s.ts.switchPending = false) →
      s.ts.freeRun.done < s.ts.freeRun.count.natAbs → s.ts.freeRun.nextAt ≤ s.ts.now.tick →
      done = s.ts.freeRun.done + 1 ∧ (0 < s.ts.freeRun.count → ticks = 2) ∧ (s.ts.freeRun.count < 0 → ticks = 0)) :
    stepTicks s = ticks ∧ doneAfter s = done := by
  unfold stepTicks doneAfter
  cases a : anchored s with
  | true =>
    obtain ⟨rfl, rfl⟩ := plain (.inl (anchored_iff.mp a))
    exact ⟨rfl, rfl⟩
  | false =>
    have free := (anchored_false_iff s).mp a
    unfold FreeRun.advance
    by_cases adjusts : s.ts.freeRun.adjusts s.ts.now.tick = true
    · obtain ⟨some, reached⟩ := (adjusts_iff _ _).mp adjusts
      obtain ⟨rfl, two, none⟩ := adjusted free some reached
      rw [if_neg Bool.false_ne_true, if_pos adjusts, if_neg Bool.false_ne_true, if_pos adjusts]
      refine ⟨?_, rfl⟩
      by_cases positive : 0 < s.ts.freeRun.count
      · rw [if_pos positive, two positive]
      · rw [if_neg positive, none (by omega)]
    · have idle : s.ts.freeRun.count.natAbs ≤ s.ts.freeRun.done ∨ s.ts.now.tick < s.ts.freeRun.nextAt := by
        rw [adjusts_iff] at adjusts
        omega
      obtain ⟨rfl, rfl⟩ := plain (.inr idle)
      rw [if_neg Bool.false_ne_true, if_neg adjusts, if_neg Bool.false_ne_true, if_neg adjusts]
      exact ⟨rfl, rfl⟩

/-- The state in which the timescale takes a tick: every timer has counted it. -/
def timersTicked (s : State) : State := tickTimers (endInstant { s with elapsed := s.elapsed + 1 })

theorem tick_of_running (running : s.run = .running) : tick s = tickTimescale (timersTicked s) := if_pos running

/-- Settles O13: the timers, then the timescale held, within a second, and at a wrap. -/
theorem oneTickMovesTimeAndTimers : Obligations.OneTickMovesTimeAndTimers := by
  refine ⟨fun s stopped => if_neg stopped, fun s running valid => ?_⟩
  intro t now free n anchored next
  have ticked : t = tickTimescale (timersTicked s) := tick_of_running s running
  have whole : t = { timersTicked s with ts := t.ts, sched := t.sched } := by
    rw [ticked]
    exact tickTimescale_eq _
  clear_value t
  refine ⟨?_, fun p => ?_, fun i => ?_, fun i => ?_, fun left held => ?_, fun unheld ticks done plain adjusted => ?_⟩
  · rw [whole]
    rfl
  · rw [whole]
    cases p <;> rfl
  · rw [whole]
    exact ⟨mapVec_getElem OutLine.tick s.lines i.val i.isLt, mapVec_getElem OutLine.level s.lines i.val i.isLt⟩
  · rw [whole]
    exact ⟨mapVec_getElem CapLine.tick s.caps i.val i.isLt, by simp [timersTicked]⟩
  · rw [ticked, tickTimescale_held (timersTicked s) held]
    exact ⟨rfl, rfl⟩
  · obtain ⟨rfl, rfl⟩ := stepTicks_unique (timersTicked s) plain adjusted
    rw [ticked, tickTimescale_free (timersTicked s) unheld]
    refine ⟨fun within => ?_, fun wraps => ⟨advanceBy_wrap_ts (adjustmentCounted (timersTicked s)) wraps,
      fun before => ?_, fun last => ?_⟩⟩
    · rw [advanceBy_within (adjustmentCounted (timersTicked s)) within]
      exact ⟨rfl, rfl⟩
    · exact (advanceBy_wrap_sched (adjustmentCounted (timersTicked s)) wraps).trans (if_neg (Nat.not_le.mpr before))
    · exact (advanceBy_wrap_sched (adjustmentCounted (timersTicked s)) wraps).trans (if_pos (Nat.le_of_eq last.symm))

end Ticks

section Boundary

variable (s : State)

/-! ## The second boundary (R6, R8, R11 to R13) -/

/-- The timescale once the amount of the second that ends has been made up (R13). -/
def finishedTs (s : State) : Timescale :=
  if anchored s then
    { s.ts with
      boundaryDue := false
      phaseOffset := foldTicks (s.ts.phaseOffset + s.ts.slewLeft)
      slewLeft := 0
      slewLost := 0 }
  else { s.ts with boundaryDue := false }

theorem finishAmount_eq : finishAmount (setTs { s.ts with boundaryDue := false } s) = setTs (finishedTs s) s := by
  unfold finishAmount finishedTs
  have same : anchored (setTs { s.ts with boundaryDue := false } s) = anchored s := rfl
  rw [same]
  split <;> rfl

/-- A staged load is a discontinuity (R8). -/
def LoadMoves (s : State) (v : Nat) : Prop := s.ts.timeState = .unset ∨ v ≠ s.ts.now.sec

/-- The jump of a staged load, in the state that has declared it. -/
def loadJump (v : Nat) (s : State) : State :=
  takeJump (decide (s.ts.timeState = .set) && decide (s.ts.now.sec < v)) s.ts.now ⟨v, s.ts.now.tick⟩
    (declareEra .load (loadSeconds v s))

theorem applyLoad_none (absent : s.ts.stagedLoad = none) : applyLoad s = s := by
  unfold applyLoad
  rw [absent]

theorem applyLoad_moves {v : Nat} (staged : s.ts.stagedLoad = some v) (moves : LoadMoves s v) :
    applyLoad s = loadJump v s := by
  unfold applyLoad
  rw [staged]
  exact if_pos moves

theorem applyLoad_same {v : Nat} (staged : s.ts.stagedLoad = some v) (same : ¬ LoadMoves s v) :
    applyLoad s = loadSeconds v s := by
  unfold applyLoad
  rw [staged]
  exact if_neg same

theorem loadJump_ts (v : Nat) :
    (loadJump v s).ts =
      { s.ts with now := ⟨v, s.ts.now.tick⟩, stagedLoad := none, timeState := .set, era := s.ts.era + 1 } := by
  rw [loadJump, (takeJump_schedulePart _ _ _ _).ts, declareEra_ts]
  rfl

theorem loadJump_era (v : Nat) : (loadJump v s).attn.stateOf .era = (s.attn.stateOf .era).whenRaised := by
  rw [loadJump, (takeJump_schedulePart _ _ _ _).kinds .era nofun nofun nofun, declareEra_stateOf]
  rfl

/-- A backward jump leaves the entries with their due times, and everything but the laps (R105). -/
theorem takeJump_backward_leaves (old new : TimeValue) :
    (takeJump false old new s).sched.waiting = s.sched.waiting ∧ (takeJump false old new s).lines = s.lines ∧
      (takeJump false old new s).sched.armed.map (fun a => (a.entry, a.due)) =
        s.sched.armed.map (fun a => (a.entry, a.due)) ∧
      (takeJump false old new s).journal = s.journal := by
  rw [takeJump_backward]
  refine ⟨rfl, rfl, ?_, rfl⟩
  rw [setArmed_sched, List.map_map]
  exact List.map_congr_left fun a _ => by cases a; rfl

/-- The timescale once the amount of the second that begins has been taken (R11, R12, R65). -/
def amountTaken (c : Timescale) (d : Discipline) : Timescale :=
  let amount := clampMag c.remainingSlew d.config.slewRate
  let correction : Int := d.freqEstimate * 125000000 + c.freqRemainder
  let taken := { c with remainingSlew := c.remainingSlew - amount, slewAmount := amount }
  if d.state = .locked ∧ c.switchPending = false then { taken with slewLeft := amount, slewLost := 0 }
  else
    { taken with
      freqRemainder := correction.tmod 1000000000
      freeRun := ⟨amount, correction.tdiv 1000000000, 0, 0⟩ }

theorem takeSlewAmount_eq : takeSlewAmount s = setTs (amountTaken s.ts s.disc) s := by
  unfold takeSlewAmount amountTaken
  dsimp only
  cases a : anchored s with
  | true =>
    rw [if_pos rfl, if_pos (anchored_iff.mp a)]
  | false =>
    rw [if_neg Bool.false_ne_true, if_neg ((anchored_false_iff s).mp a)]
    rfl

theorem carryBoundary_eq : carryBoundary s = takeSlewAmount (applyLoad (setTs (finishedTs s) s)) := by
  rw [carryBoundary, finishAmount_eq]

end Boundary

end Sys2Proof.Machine

/-! PROOFS. The second boundary: what it makes of the timescale, and how a staged load is taken. -/

namespace Sys2Proof.Machine

section Boundary

variable (s : State)

/-- What a staged load leaves of the timescale (R8): the seconds, the load, the time state and the era may change. -/
theorem applyLoad_ts :
    (applyLoad s).ts =
      { s.ts with
        now := ⟨(applyLoad s).ts.now.sec, s.ts.now.tick⟩
        stagedLoad := none
        timeState := (applyLoad s).ts.timeState
        era := (applyLoad s).ts.era } := by
  cases staged : s.ts.stagedLoad with
  | none =>
    rw [applyLoad_none s staged]
    conv_rhs => rw [← staged]
  | some v =>
    by_cases moves : LoadMoves s v
    · rw [applyLoad_moves s staged moves, loadJump_ts]
    · rw [applyLoad_same s staged moves]
      rfl

/-- The timescale that a boundary leaves, but for its load. -/
theorem carryBoundary_ts :
    ∃ sec timeState era,
      (carryBoundary s).ts =
        amountTaken
          { finishedTs s with
            now := ⟨sec, s.ts.now.tick⟩
            stagedLoad := none
            timeState := timeState
            era := era } s.disc := by
  have tick : (finishedTs s).now = s.ts.now := by
    unfold finishedTs
    split <;> rfl
  have loaded := applyLoad_ts (setTs (finishedTs s) s)
  have disc := (applyLoad_clockWork (setTs (finishedTs s) s)).disc
  refine ⟨(applyLoad (setTs (finishedTs s) s)).ts.now.sec, (applyLoad (setTs (finishedTs s) s)).ts.timeState,
    (applyLoad (setTs (finishedTs s) s)).ts.era, ?_⟩
  rw [carryBoundary_eq, takeSlewAmount_eq, ← tick]
  show amountTaken (applyLoad (setTs (finishedTs s) s)).ts (applyLoad (setTs (finishedTs s) s)).disc = _
  rw [disc]
  exact congrArg (fun c => amountTaken c s.disc) loaded

/-- The slew amount of the second that begins (R11). -/
def nextAmount (s : State) : Int := clampMag s.ts.remainingSlew s.disc.config.slewRate

/-- The boundary of an anchored second (R13). -/
theorem amountTaken_anchored (isAnchored : s.disc.state = .locked ∧ s.ts.switchPending = false) (now : TimeValue)
    (timeState : TimeState) (era : Half) :
    amountTaken { finishedTs s with now := now, stagedLoad := none, timeState := timeState, era := era } s.disc =
      { s.ts with
        now := now
        stagedLoad := none
        timeState := timeState
        era := era
        boundaryDue := false
        phaseOffset := foldTicks (s.ts.phaseOffset + s.ts.slewLeft)
        remainingSlew := s.ts.remainingSlew - nextAmount s
        slewAmount := nextAmount s
        slewLeft := nextAmount s
        slewLost := 0 } := by
  unfold finishedTs amountTaken
  rw [if_pos (anchored_iff.mpr isAnchored)]
  exact if_pos isAnchored

/-- The boundary of a free-running second (R12, R65). -/
theorem amountTaken_free (isFree : ¬ (s.disc.state = .locked ∧ s.ts.switchPending = false)) (now : TimeValue)
    (timeState : TimeState) (era : Half) :
    amountTaken { finishedTs s with now := now, stagedLoad := none, timeState := timeState, era := era } s.disc =
      { s.ts with
        now := now
        stagedLoad := none
        timeState := timeState
        era := era
        boundaryDue := false
        remainingSlew := s.ts.remainingSlew - nextAmount s
        slewAmount := nextAmount s
        freqRemainder := (s.disc.freqEstimate * 125000000 + s.ts.freqRemainder).tmod 1000000000
        freeRun := ⟨nextAmount s, (s.disc.freqEstimate * 125000000 + s.ts.freqRemainder).tdiv 1000000000, 0, 0⟩ } := by
  unfold finishedTs amountTaken
  rw [if_neg (mt anchored_iff.mp isFree)]
  exact if_neg isFree

theorem finishedTs_kept :
    (finishedTs s).now = s.ts.now ∧ (finishedTs s).stagedLoad = s.ts.stagedLoad ∧
      (finishedTs s).timeState = s.ts.timeState ∧ (finishedTs s).era = s.ts.era := by
  unfold finishedTs
  split <;> exact ⟨rfl, rfl, rfl, rfl⟩

theorem amountTaken_kept (c : Timescale) (d : Discipline) :
    (amountTaken c d).now = c.now ∧ (amountTaken c d).timeState = c.timeState ∧ (amountTaken c d).era = c.era := by
  unfold amountTaken
  dsimp only
  split <;> exact ⟨rfl, rfl, rfl⟩

/-- A boundary without a staged load changes the timescale alone. -/
theorem carryBoundary_none (absent : s.ts.stagedLoad = none) :
    carryBoundary s = setTs (amountTaken (finishedTs s) s.disc) s := by
  have none := (finishedTs_kept s).2.1.trans absent
  rw [carryBoundary_eq, applyLoad_none (setTs (finishedTs s) s) none, takeSlewAmount_eq]
  rfl

theorem carryBoundary_same {v : Nat} (staged : s.ts.stagedLoad = some v) (same : ¬ LoadMoves s v) :
    carryBoundary s = setTs (amountTaken (loadSeconds v (setTs (finishedTs s) s)).ts s.disc) s := by
  obtain ⟨now, load, timeState, era⟩ := finishedTs_kept s
  have still : ¬ LoadMoves (setTs (finishedTs s) s) v := by
    unfold LoadMoves
    rw [setTs_ts, timeState, now]
    exact same
  rw [carryBoundary_eq, applyLoad_same (setTs (finishedTs s) s) (load.trans staged) still, takeSlewAmount_eq]
  rfl

theorem carryBoundary_moves {v : Nat} (staged : s.ts.stagedLoad = some v) (moves : LoadMoves s v) :
    carryBoundary s =
      setTs (amountTaken (loadJump v (setTs (finishedTs s) s)).ts s.disc) (loadJump v (setTs (finishedTs s) s)) := by
  obtain ⟨now, load, timeState, era⟩ := finishedTs_kept s
  have moved : LoadMoves (setTs (finishedTs s) s) v := by
    unfold LoadMoves
    rw [setTs_ts, timeState, now]
    exact moves
  have applied := applyLoad_moves (setTs (finishedTs s) s) (load.trans staged) moved
  have disc := (applyLoad_clockWork (setTs (finishedTs s) s)).disc
  rw [applied] at disc
  rw [carryBoundary_eq, applied, takeSlewAmount_eq, disc]
  rfl

/-- What the jump of a load is taken in: the new time, with the discontinuity declared (R4, R8). -/
theorem loadJump_eq (v : Nat) :
    ∃ mid, loadJump v (setTs (finishedTs s) s) =
        takeJump (decide (s.ts.timeState = .set) && decide (s.ts.now.sec < v)) s.ts.now ⟨v, s.ts.now.tick⟩ mid ∧
      mid.sched = s.sched ∧ mid.lines = s.lines ∧ mid.ts.era = s.ts.era + 1 ∧ mid.ts.now = ⟨v, s.ts.now.tick⟩ ∧
      mid.journal = journalAfter (s.ts.era + 1) ⟨v, s.ts.now.tick⟩ (.era (s.ts.era + 1) .load) s.journal := by
  obtain ⟨now, load, timeState, era⟩ := finishedTs_kept s
  have sched := declareEra_sched .load (loadSeconds v (setTs (finishedTs s) s))
  have journal := declareEra_journal .load (loadSeconds v (setTs (finishedTs s) s))
  have ts := declareEra_ts (s := loadSeconds v (setTs (finishedTs s) s)) .load
  refine ⟨declareEra .load (loadSeconds v (setTs (finishedTs s) s)), ?_, sched.1, sched.2, ?_, ?_, ?_⟩
  · rw [loadJump, setTs_ts, timeState, now]
  · rw [ts]
    show (finishedTs s).era + 1 = _
    rw [era]
  · rw [ts]
    show TimeValue.mk v (finishedTs s).now.tick = _
    rw [now]
  · rw [journal]
    show journalAfter ((finishedTs s).era + 1) ⟨v, (finishedTs s).now.tick⟩ (.era ((finishedTs s).era + 1) .load) s.journal = _
    rw [era, now]

/-- The boundary that takes a load which is a discontinuity (R5, R8). -/
theorem carryBoundary_discontinuity {v : Nat} (staged : s.ts.stagedLoad = some v) (moves : LoadMoves s v) :
    let t := carryBoundary s
    (t.ts.timeState = .set ∧ t.ts.now.sec = v) ∧ t.ts.era = s.ts.era + 1 ∧
      t.attn.stateOf .era = (s.attn.stateOf .era).whenRaised ∧
      (s.ts.timeState = .set → s.ts.now.sec < v →
        ∃ mid, t = { takeJump true s.ts.now ⟨v, s.ts.now.tick⟩ mid with ts := t.ts } ∧ mid.sched = s.sched ∧
          mid.lines = s.lines ∧ mid.ts.era = s.ts.era + 1 ∧ mid.ts.now = ⟨v, s.ts.now.tick⟩ ∧
          mid.journal = journalAfter (s.ts.era + 1) ⟨v, s.ts.now.tick⟩ (.era (s.ts.era + 1) .load) s.journal) ∧
      (s.ts.timeState = .unset ∨ v < s.ts.now.sec →
        t.sched.waiting = s.sched.waiting ∧ t.lines = s.lines ∧
          t.sched.armed.map (fun a => (a.entry, a.due)) = s.sched.armed.map (fun a => (a.entry, a.due)) ∧
          t.journal = journalAfter (s.ts.era + 1) ⟨v, s.ts.now.tick⟩ (.era (s.ts.era + 1) .load) s.journal) := by
  intro t
  have carried : t = _ := carryBoundary_moves s staged moves
  obtain ⟨mid, jump, sched, lines, era, now, journal⟩ := loadJump_eq s v
  obtain ⟨takenNow, takenState, takenEra⟩ := amountTaken_kept (loadJump v (setTs (finishedTs s) s)).ts s.disc
  have jumped := loadJump_ts (setTs (finishedTs s) s) v
  have eraKept := (finishedTs_kept s).2.2.2
  clear_value t
  refine ⟨⟨?_, ?_⟩, ?_, ?_, fun set later => ?_, fun backward => ?_⟩
  · rw [carried, setTs_ts, takenState, jumped]
  · rw [carried, setTs_ts, takenNow, jumped]
  · rw [carried, setTs_ts, takenEra, jumped, ← eraKept]
    rfl
  · rw [carried]
    exact loadJump_era (setTs (finishedTs s) s) v
  · have forward : (decide (s.ts.timeState = .set) && decide (s.ts.now.sec < v)) = true := by
      rw [decide_eq_true set, decide_eq_true later]
      rfl
    rw [forward] at jump
    refine ⟨mid, ?_, sched, lines, era, now, journal⟩
    rw [carried, jump]
    rfl
  · have backwards : (decide (s.ts.timeState = .set) && decide (s.ts.now.sec < v)) = false := by
      rw [Bool.and_eq_false_iff, decide_eq_false_iff_not, decide_eq_false_iff_not]
      exact backward.imp (fun unset => by rw [unset]; nofun) Nat.lt_asymm
    rw [backwards] at jump
    obtain ⟨waiting, kept, armed, journals⟩ := takeJump_backward_leaves mid s.ts.now ⟨v, s.ts.now.tick⟩
    rw [carried, jump]
    exact ⟨waiting.trans (congrArg Schedule.waiting sched), kept.trans lines,
      armed.trans (by rw [sched]), journals.trans journal⟩

theorem carryBoundary_common :
    let c := (carryBoundary s).ts
    c.boundaryDue = false ∧ c.stagedLoad = none ∧ c.slewAmount = nextAmount s ∧
      c.remainingSlew = s.ts.remainingSlew - nextAmount s ∧ c.now.tick = s.ts.now.tick ∧ c.hold = s.ts.hold := by
  intro c
  obtain ⟨sec, timeState, era, ts⟩ := carryBoundary_ts s
  have same : c = _ := ts
  clear_value c
  by_cases isAnchored : s.disc.state = .locked ∧ s.ts.switchPending = false
  · rw [same, amountTaken_anchored s isAnchored]
    exact ⟨rfl, rfl, rfl, rfl, rfl, rfl⟩
  · rw [same, amountTaken_free s isAnchored]
    exact ⟨rfl, rfl, rfl, rfl, rfl, rfl⟩

/-- Settles O34: the amounts by whether the second is anchored, and the load by whether it moves the time. -/
theorem secondBoundaryIsCarriedOut : Obligations.SecondBoundaryIsCarriedOut := by
  intro s running isDue rate amount
  obtain ⟨sec, timeState, era, ts⟩ := carryBoundary_ts s
  have work := carryBoundary_clockWork s
  have carried : exec .secondBoundary s = .next (carryBoundary s) :=
    event_of s s.ts.boundaryDue carryBoundary running isDue
  obtain ⟨due, load, taken, remaining, tick, hold⟩ := carryBoundary_common s
  refine ⟨carryBoundary s, carried, due, load, taken, remaining, tick, work.disc, work.mon .a, work.mon .b, work.caps,
    work.admissions, hold, work.pending, fun locked settled => ?_, fun free => ?_, fun absent => ?_, fun v staged => ?_⟩
  case refine_1 =>
    rw [ts, amountTaken_anchored s ⟨locked, settled⟩]
    obtain ⟨least, most⟩ := foldTicks_range (s.ts.phaseOffset + s.ts.slewLeft)
    have congruent := foldTicks_congr (s.ts.phaseOffset + s.ts.slewLeft)
    refine ⟨least, most, ?_, rfl, rfl, rfl, rfl⟩
    dsimp only
    omega
  case refine_2 =>
    have isFree : ¬ (s.disc.state = .locked ∧ s.ts.switchPending = false) := by
      rintro ⟨locked, settled⟩
      rw [settled] at free
      exact free.elim (absurd locked) nofun
    rw [ts, amountTaken_free s isFree]
    exact ⟨rfl, rfl, rfl, rfl, rfl⟩
  case refine_3 =>
    have kept := amountTaken_kept (finishedTs s) s.disc
    obtain ⟨now, _, timeState, era⟩ := finishedTs_kept s
    rw [carryBoundary_none s absent]
    exact ⟨rfl, kept.1.trans now, kept.2.1.trans timeState, kept.2.2.trans era⟩
  case refine_4 =>
    by_cases moves : LoadMoves s v
    · obtain ⟨loaded, era, raised, forward, backward⟩ := carryBoundary_discontinuity s staged moves
      exact ⟨loaded.1, loaded.2, fun set same => (moves.elim (by rw [set]; nofun) fun other => absurd same other),
        fun _ => ⟨era, raised, forward, backward⟩⟩
    · obtain ⟨now, state, era⟩ := amountTaken_kept (loadSeconds v (setTs (finishedTs s) s)).ts s.disc
      have kept := (finishedTs_kept s).2.2.2
      rw [carryBoundary_same s staged moves]
      exact ⟨state, congrArg TimeValue.sec now, fun _ _ => ⟨rfl, era.trans kept⟩, fun moved => absurd moved moves⟩

end Boundary

end Sys2Proof.Machine

/-! PROOFS. Firing, overtaking and forward jumps. -/

namespace Sys2Proof.Machine

section Firing

variable {s : State}

/-! ## What a firing does (R94 to R98) -/

theorem fireAction_eq (late : Bool) (e : Entry) (s : State) :
    fireAction late e s = (firedEntry e, firedState late e s) := by
  unfold fireAction firedState
  cases action : e.desc.action <;> simp [applyAction, firedEntry, satSucc, action]

theorem endBurst_eq (outcome : RemovalOutcome) (e : Entry) (s : State) : endBurst outcome e s = burstEnded outcome e s := by
  unfold endBurst burstEnded reportRemoved
  rcases e.desc.start with _ | ⟨i, offset, _ | _⟩ <;> rfl

/-- An armed entry with its occurrences counted (R94). -/
def ArmedEntry.withEntry (a : ArmedEntry) (e : Entry) : ArmedEntry := { a with entry := e }

theorem advance_eq_movedOn (a : ArmedEntry) (e : Entry) (ticks left : Nat) :
    ((a.withEntry { e with remaining := left }).advance ticks) = movedOn ticks left a e := by
  cases a
  rfl

section Settling

variable (k : Nat) (outcome : RemovalOutcome) (a : ArmedEntry) (e : Entry) (s : State)

theorem settle_once (once : e.desc.rep = none) : settle k outcome (a.withEntry e) s = burstEnded outcome e s := by
  rw [← endBurst_eq]
  unfold settle
  rw [show (a.withEntry e).entry.desc.rep = none from once]
  rfl

theorem settle_unbounded {q : RepeatSpec} (repeats : e.desc.rep = some q) (unbounded : q.count = 0) :
    settle k outcome (a.withEntry e) s = arm (movedOn (k * q.period) e.remaining a e) s := by
  unfold settle
  rw [show (a.withEntry e).entry.desc.rep = some q from repeats]
  rw [← advance_eq_movedOn]
  exact if_pos unbounded

theorem settle_left {q : RepeatSpec} (repeats : e.desc.rep = some q) (bounded : q.count ≠ 0) (left : k < e.remaining) :
    settle k outcome (a.withEntry e) s = arm (movedOn (k * q.period) (e.remaining - k) a e) s := by
  unfold settle
  rw [show (a.withEntry e).entry.desc.rep = some q from repeats]
  rw [← advance_eq_movedOn]
  exact (if_neg bounded).trans (if_pos left)

theorem settle_ended {q : RepeatSpec} (repeats : e.desc.rep = some q) (bounded : q.count ≠ 0) (ended : e.remaining ≤ k) :
    settle k outcome (a.withEntry e) s = burstEnded outcome e s := by
  rw [← endBurst_eq]
  unfold settle
  rw [show (a.withEntry e).entry.desc.rep = some q from repeats]
  exact (if_neg bounded).trans (if_neg (Nat.not_lt.mpr ended))

end Settling

theorem fireOrdinary_eq (a : ArmedEntry) (s : State) :
    fireOrdinary a s =
      settle 1 .complete (a.withEntry (firedEntry a.entry)) (firedState false a.entry (disarm a.handle s)) := by
  unfold fireOrdinary
  rw [fireAction_eq]
  rfl

/-! ## Which entry a handle names (R92, R100) -/

theorem find_firable {now : TimeValue} {a : ArmedEntry} (reached : a.reached now = true) {ahead behind : List ArmedEntry}
    {seen : List (Fin 8)} (others : ∀ b ∈ ahead, b.handle ≠ a.handle)
    (first : ∀ b ∈ ahead, b.reached now = true → b.entry.desc.line ≠ a.entry.desc.line)
    (unseen : a.entry.desc.line ∉ seen) :
    (firable now seen (ahead ++ a :: behind)).find? (fun b => b.handle == a.handle) = some a := by
  induction ahead generalizing seen with
  | nil =>
    rw [List.nil_append, firable, if_pos (by simp [reached, unseen])]
    exact List.find?_cons_of_pos (by simp)
  | cons b ahead ih =>
    have rest := fun (seen : List (Fin 8)) (unseen : a.entry.desc.line ∉ seen) =>
      ih (seen := seen) (fun c mem => others c (List.mem_cons_of_mem b mem))
        (fun c mem => first c (List.mem_cons_of_mem b mem)) unseen
    rw [List.cons_append, firable]
    split
    · rename_i fires
      have line := first b List.mem_cons_self (Bool.and_eq_true_iff.mp fires).1
      rw [List.find?_cons_of_neg (by simpa using others b List.mem_cons_self)]
      exact rest _ fun mem => (List.mem_cons.mp mem).elim (fun same => line same.symm) unseen
    · exact rest _ unseen

theorem reached_iff (a : ArmedEntry) (now : TimeValue) :
    a.reached now = true ↔ (a.due.lin : Int) + a.lap * wrapLin ≤ now.lin := decide_eq_true_iff

theorem firing_eq {h : Nat} {a : ArmedEntry} (running : s.run = .running) (names : firableEntry h s = some a) :
    exec (.firing h) s = .next (fireOrdinary a s) := by
  have row : exec (.firing h) s = (match firableEntry h s with
    | some a => event true (fireOrdinary a) s
    | none => .next s) := rfl
  rw [row, names]
  exact event_of s true (fireOrdinary a) running rfl

/-- Settles O38: which entry a handle names, and its firing by the way its burst goes on. -/
theorem firingActsAndMovesOn : Obligations.FiringActsAndMovesOn := by
  refine ⟨fun s ahead behind a armed reached others first => ?_, fun s h a running names => ?_⟩
  · rw [firableEntry, State.firable, armed]
    exact find_firable ((reached_iff a s.ts.now).mpr reached) others first (by simp)
  have search : s.firable.find? (fun b => b.handle == h) = some a := names
  have handle : a.handle = h := by simpa using List.find?_some search
  obtain ⟨ahead, behind, armed, reached, first⟩ := mem_state_firable.mp (List.mem_of_find?_eq_some search)
  have fires : exec (.firing h) s = _ := (firing_eq running names).trans (congrArg _ (fireOrdinary_eq a s))
  intro out e t
  have after : firedState false a.entry (disarm a.handle s) = t := by rw [handle]; rfl
  rw [after] at fires
  refine ⟨handle, (reached_iff a s.ts.now).mp reached, ⟨ahead, behind, armed, first⟩, fun once => ?_, fun q repeats =>
    ⟨fun unbounded => ?_, fun bounded left => ?_, fun bounded ended => ?_⟩⟩
  · exact fires.trans (congrArg _ (settle_once 1 .complete a e t once))
  · have moved := settle_unbounded 1 .complete a e t repeats unbounded
    rw [Nat.one_mul] at moved
    exact fires.trans (congrArg _ moved)
  · have moved := settle_left 1 .complete a e t repeats bounded left
    rw [Nat.one_mul] at moved
    exact fires.trans (congrArg _ moved)
  · exact fires.trans (congrArg _ (settle_ended 1 .complete a e t repeats bounded ended))

/-! ## Overtaking (R101 to R106) -/

theorem overtakeOne_fire {a : ArmedEntry} (limit : Int) (fires : a.entry.desc.latePolicy = .fire) (s : State) :
    overtakeOne limit a s =
      settle (a.dueCount limit) .complete (a.withEntry (firedEntry a.entry))
        (raise .schedule (firedState true a.entry (disarm a.handle s))) := by
  unfold overtakeOne
  rw [fires]
  dsimp only
  rw [fireAction_eq]
  rfl

theorem overtakeOne_skip {a : ArmedEntry} (limit : Int) (skips : a.entry.desc.latePolicy = .skip) (s : State) :
    overtakeOne limit a s =
      settle (a.dueCount limit) .skipped (a.withEntry a.entry) (raise .schedule (disarm a.handle s)) := by
  unfold overtakeOne
  rw [skips]
  rfl

theorem dueCount_eq {a : ArmedEntry} {q : RepeatSpec} (limit : Int) (repeats : a.entry.desc.rep = some q) :
    a.dueCount limit = ((limit - a.lin) / q.period).toNat + 1 := by
  rw [ArmedEntry.dueCount, repeats]

/-- An overtaken entry is settled with what its late policy made of it. -/
theorem overtakeOne_eq (a : ArmedEntry) (limit : Int) (s : State) :
    overtakeOne limit a s =
      settle (a.dueCount limit) (if a.entry.desc.latePolicy = .fire then .complete else .skipped)
        (a.withEntry (if a.entry.desc.latePolicy = .fire then firedEntry a.entry else a.entry))
        (raise .schedule
          (if a.entry.desc.latePolicy = .fire then firedState true a.entry (disarm a.handle s)
            else disarm a.handle s)) := by
  cases policy : a.entry.desc.latePolicy with
  | fire => exact overtakeOne_fire limit policy s
  | skip => exact overtakeOne_skip limit policy s

/-- Settles O39, by the way the burst of an overtaken entry goes on. -/
theorem overtakenEntriesMoveOn : Obligations.OvertakenEntriesMoveOn := by
  refine ⟨fun s old new => takeJump_backward old new s, fun s a limit => ?_⟩
  intro out fires e t outcome
  have whole : overtakeOne limit a s = settle (a.dueCount limit) outcome (a.withEntry e) t := overtakeOne_eq a limit s
  have desc : e.desc = a.entry.desc := by
    show (if a.entry.desc.latePolicy = .fire then firedEntry a.entry else a.entry).desc = _
    split <;> rfl
  have remaining : e.remaining = a.entry.remaining := by
    show (if a.entry.desc.latePolicy = .fire then firedEntry a.entry else a.entry).remaining = _
    split <;> rfl
  clear_value e t outcome
  refine ⟨fun once => ?_, fun q repeats => ?_⟩
  · exact whole.trans (settle_once _ outcome a e t (desc ▸ once))
  · intro k
    rw [dueCount_eq limit repeats] at whole
    have repeated : e.desc.rep = some q := desc ▸ repeats
    refine ⟨fun unbounded => ?_, fun bounded left => ?_, fun bounded ended => ?_⟩
    · exact whole.trans (settle_unbounded k outcome a e t repeated unbounded)
    · rw [← remaining] at left ⊢
      exact whole.trans (settle_left k outcome a e t repeated bounded left)
    · exact whole.trans (settle_ended k outcome a e t repeated bounded (remaining ▸ ended))

/-! ## Forward jumps -/

/-- An entry that no overtaken one shares its handle with keeps its place in the armed list. -/
theorem foldl_overtakeOne_armed {limit : Int} {b : ArmedEntry} {l : List ArmedEntry}
    (others : ∀ a ∈ l, a.handle ≠ b.handle) {s : State} (armed : b ∈ s.sched.armed) :
    b ∈ (l.foldl (fun t a => overtakeOne limit a t) s).sched.armed := by
  induction l generalizing s with
  | nil => exact armed
  | cons a l ih =>
    exact ih (fun c mem => others c (List.mem_cons_of_mem a mem))
      (overtakeOne_armed armed (Ne.symm (others a List.mem_cons_self)))

theorem lin_lt_wrapLin {t : TimeValue} (valid : t.Valid) : t.lin < wrapLin := by
  obtain ⟨sec, tick⟩ := valid
  unfold TimeValue.lin wrapLin
  dsimp only [Config.ticksPerSecond, Config.secondsModulus]
  omega

/-- Settles O23: the entries up to the new time, read on the round of the old one. -/
theorem forwardJumpOvertakesInOrder : Obligations.ForwardJumpOvertakesInOrder := by
  intro s old new oldValid newValid limit passed handled judged
  have jump : takeJump true old new s = setArmed (handled.sched.armed.map judged) handled := rfl
  have oldRange := lin_lt_wrapLin oldValid
  have newRange := lin_lt_wrapLin newValid
  have member (a : ArmedEntry) (armed : a ∈ s.sched.armed) :
      a ∈ passed ↔ (a.due.lin : Int) + a.lap * wrapLin ≤ limit := by
    rw [List.mem_filter, decide_eq_true_iff]
    exact and_iff_right armed
  have direct (forward : old.lin ≤ new.lin) : limit = new.lin := if_neg (Nat.not_lt.mpr forward)
  have wrapped (crosses : new.lin < old.lin) : limit = (new.lin : Int) + wrapLin := if_pos crosses
  refine ⟨jump, fun none => ?_, fun a armed valid => ?_, fun a armed others => ?_⟩
  · show passed.foldl (fun t a => overtakeOne limit a t) s = s
    rw [none]
    rfl
  · have due := lin_lt_wrapLin valid
    rw [member a armed]
    refine ⟨fun lap forward => ?_, fun lap crosses => ?_, fun lap forward => ?_, fun lap crosses => ?_⟩
    · rw [lap, direct forward]
      omega
    · rw [lap, wrapped crosses]
      omega
    · rw [lap, direct forward]
      omega
    · rw [lap, wrapped crosses]
      omega
  · rw [jump]
    exact List.mem_map_of_mem (foldl_overtakeOne_armed (fun b mem => others b mem) armed)

end Firing

end Sys2Proof.Machine

/-! PROOFS. The anchoring correction. -/

namespace Sys2Proof.Machine

section Correction

variable {s : State} {distance : Int}

/-- The state that a correction moves: a hold has ended (R17). -/
def unheld (s : State) : State := setTs { s.ts with hold := none } s

theorem correct_forward (forward : 0 < distance) :
    correct distance s =
      if 125000000 ≤ (s.ts.now.tick : Int) + distance then
        carryBoundary (fireReached (advanceBy distance.toNat (unheld s)))
      else fireReached (advanceBy distance.toNat (unheld s)) := if_pos forward

theorem correct_back (backward : distance ≤ 0) (within : 0 ≤ (s.ts.now.tick : Int) + distance) :
    correct distance s =
      setTs { s.ts with hold := none, now := ⟨s.ts.now.sec, ((s.ts.now.tick : Int) + distance).toNat⟩ } s :=
  (if_neg (Int.not_lt.mpr backward)).trans (if_pos within)

theorem correct_held (backward : distance ≤ 0) (across : (s.ts.now.tick : Int) + distance < 0) :
    correct distance s =
      setTs { s.ts with hold := some (-((s.ts.now.tick : Int) + distance)).toNat, now := ⟨s.ts.now.sec, 0⟩ } s :=
  (if_neg (Int.not_lt.mpr backward)).trans (if_neg (Int.not_le.mpr across))

/-- Forward within the second: the time goes there, and what it passes fires. -/
theorem correct_within (forward : 0 < distance) (within : (s.ts.now.tick : Int) + distance < 125000000) :
    correct distance s =
      fireReached
        (setTs { s.ts with hold := none, now := ⟨s.ts.now.sec, ((s.ts.now.tick : Int) + distance).toNat⟩ } s) := by
  have tick : (unheld s).ts.now.tick + distance.toNat = ((s.ts.now.tick : Int) + distance).toNat := by
    show s.ts.now.tick + distance.toNat = _
    omega
  rw [correct_forward forward, if_neg (Int.not_le.mpr within), advanceBy_within (unheld s) (by rw [tick]; omega), tick]
  rfl

/-- Forward across the tick wrap: what the time passes fires ahead of the boundary. -/
theorem correct_across (forward : 0 < distance) (across : 125000000 ≤ (s.ts.now.tick : Int) + distance) :
    ∃ moved, moved = fireReached (advanceBy distance.toNat (unheld s)) ∧ correct distance s = carryBoundary moved ∧
      moved.ts =
        { s.ts with
          hold := none
          now := ⟨(s.ts.now.sec + 1) % 2 ^ 37, ((s.ts.now.tick : Int) + distance - 125000000).toNat⟩
          boundaryDue := true } := by
  have tick : (unheld s).ts.now.tick + distance.toNat - 125000000 =
      ((s.ts.now.tick : Int) + distance - 125000000).toNat := by
    show s.ts.now.tick + distance.toNat - 125000000 = _
    omega
  have wraps : 125000000 ≤ (unheld s).ts.now.tick + distance.toNat := by
    show 125000000 ≤ s.ts.now.tick + distance.toNat
    omega
  refine ⟨_, rfl, (correct_forward forward).trans (if_pos across), ?_⟩
  rw [(fireReached_schedulePart _).ts, advanceBy_wrap_ts (unheld s) wraps, tick]
  rfl

theorem advanceBy_attn (ticks : Nat) (s : State) : (advanceBy ticks s).attn = s.attn := by rw [advanceBy_eq]

/-- What a boundary makes of a staged load, whether or not it is a discontinuity (R8). -/
theorem carryBoundary_loads {v : Nat} (staged : s.ts.stagedLoad = some v) :
    (carryBoundary s).ts.now = ⟨v, s.ts.now.tick⟩ ∧ (carryBoundary s).ts.timeState = .set ∧
      (¬ LoadMoves s v → (carryBoundary s).ts.era = s.ts.era) := by
  have tick := (carryBoundary_common s).2.2.2.2.1
  have value {t : TimeValue} (sec : t.sec = v) (ticks : t.tick = s.ts.now.tick) : t = ⟨v, s.ts.now.tick⟩ := by
    cases t
    exact (TimeValue.mk.injEq _ _ _ _).mpr ⟨sec, ticks⟩
  by_cases moves : LoadMoves s v
  · obtain ⟨⟨set, sec⟩, -⟩ := carryBoundary_discontinuity s staged moves
    exact ⟨value sec tick, set, fun still => absurd moves still⟩
  · obtain ⟨now, state, era⟩ := amountTaken_kept (loadSeconds v (setTs (finishedTs s) s)).ts s.disc
    rw [carryBoundary_same s staged moves] at tick ⊢
    exact ⟨value (congrArg TimeValue.sec now) tick, state, fun _ => era.trans (finishedTs_kept s).2.2.2⟩

/-- Settles O36, by the four ways a correction can go. -/
theorem anchoringCorrectionMovesTheTime : Obligations.AnchoringCorrectionMovesTheTime := by
  intro s distance valid limit tick
  have inSecond : tick < 125000000 := Int.ofNat_lt.mpr valid.2
  refine ⟨fun forward within => ?_, correct_back, fun across => ?_, fun forward across absent => ?_,
    correct_within, fun forward across => ?_, fun moved paced => ?_⟩
  · rw [correct_within forward within, (fireReached_schedulePart _).ts]
    rfl
  · have start : (0 : Int) ≤ tick := Int.natCast_nonneg _
    exact correct_held (by omega) across
  · obtain ⟨moved, -, corrected, ts⟩ := correct_across forward across
    have none : moved.ts.stagedLoad = none := by rw [ts]; exact absent
    obtain ⟨now, -, era⟩ := amountTaken_kept (finishedTs moved) moved.disc
    obtain ⟨keptNow, -, -, keptEra⟩ := finishedTs_kept moved
    rw [corrected]
    refine ⟨?_, (carryBoundary_common moved).1, ?_⟩
    · rw [carryBoundary_none moved none, setTs_ts, now, keptNow, ts]
    · rw [carryBoundary_none moved none, setTs_ts, era, keptEra, ts]
  · intro natural t
    obtain ⟨moved, fired, corrected, ts⟩ := correct_across forward across
    have carried : t = carryBoundary moved := corrected
    refine ⟨moved, fired, ts, fun running => ?_, fun v staged => ?_⟩
    · have still : moved.run = .running := by
        rw [fired, (fireReached_internal _).run, (advanceBy_internal _ _).run]
        exact running
      rw [carried]
      exact event_of moved moved.ts.boundaryDue carryBoundary still (by rw [ts])
    · have load : moved.ts.stagedLoad = some v := by rw [ts]; exact staged
      have moves : LoadMoves moved v ↔ s.ts.timeState = .unset ∨ v ≠ natural.sec := by
        rw [LoadMoves, ts]
      obtain ⟨now, set, same⟩ := carryBoundary_loads load
      obtain ⟨due, taken, -⟩ := carryBoundary_common moved
      have era : moved.ts.era = s.ts.era := by rw [ts]
      have raised : moved.attn.stateOf .era = s.attn.stateOf .era := by
        rw [fired, (fireReached_schedulePart _).kinds .era nofun nofun nofun, advanceBy_attn]
        rfl
      rw [carried]
      refine ⟨now.trans (by rw [ts]), set, taken, due, fun isSet sameSec => ?_, fun apart => ?_⟩
      · refine (same (mt moves.mp ?_)).trans era
        rw [isSet]
        rintro (unset | other)
        · cases unset
        · exact other sameSec
      · obtain ⟨-, nextEra, nextRaised, -⟩ := carryBoundary_discontinuity moved load (moves.mpr apart)
        exact ⟨nextEra.trans (by rw [era]), nextRaised.trans (by rw [raised])⟩
  · exact ⟨(fireReached_schedulePart moved).ts, fireReached_done moved paced⟩

end Correction

end Sys2Proof.Machine

/-! PROOFS. The steps of a path: which are accepted, what is charged at them, and what is handed to the timescale. -/

namespace Sys2Proof.Machine

section Steps

variable {s : State} {p : Path}

/-! ## Accepted steps (R29, R30) -/

theorem step_taken (running : s.run = .running) (p : Path) (mark : Level) :
    exec (.referenceStep p mark) s = .next (takeStep p (decide (mark = .high)) s) :=
  event_of s true (takeStep p (decide (mark = .high))) running rfl

theorem takeStep_watching (watches : (s.mon p).state.watches = true) (marked : Bool) :
    takeStep p marked s = judgeStep p marked s := by
  unfold takeStep
  rcases (watches_iff _).mp watches with state | state | state <;> rw [state]

theorem judgeStep_early {ref : Nat} (reference : (s.mon p).refInstant = some ref)
    (early : s.elapsed < ref + ((s.mon p).config.period - (s.mon p).config.tolerance)) (marked : Bool) :
    judgeStep p marked s = charge p .earlyStep s := by
  unfold judgeStep isEarly
  rw [reference]
  exact if_pos (decide_eq_true early)

theorem judgeStep_accepted {ref : Nat} (reference : (s.mon p).refInstant = some ref)
    (onTime : ref + ((s.mon p).config.period - (s.mon p).config.tolerance) ≤ s.elapsed) (marked : Bool) :
    judgeStep p marked s = if marked then markedStep p s else unmarkedStep p s := by
  unfold judgeStep isEarly
  rw [reference]
  exact if_neg (by simpa using onTime)

theorem step_marked (running : s.run = .running) (onTime : ComesOnTime (s.mon p) s.elapsed) :
    exec (.referenceStep p .high) s = .next (markedStep p s) := by
  obtain ⟨watches, ref, reference, late⟩ := onTime
  rw [step_taken running, takeStep_watching watches, judgeStep_accepted reference late]
  rfl

theorem step_unmarked (running : s.run = .running) (onTime : ComesOnTime (s.mon p) s.elapsed) :
    exec (.referenceStep p .low) s = .next (unmarkedStep p s) := by
  obtain ⟨watches, ref, reference, late⟩ := onTime
  rw [step_taken running, takeStep_watching watches, judgeStep_accepted reference late]
  rfl

/-! ## Handing a step on (R37) -/

theorem handToTimescale_selected {marked : Bool} {u : State} (selected : u.disc.selected = some p) :
    handToTimescale p marked true false u = handStep p marked u := by
  unfold handToTimescale
  rw [selected, decide_eq_true rfl]
  rfl

theorem handToTimescale_other {marked : Bool} {was : Prop} [Decidable was] {u : State}
    (other : ¬ was ∨ u.disc.selected ≠ some p) : handToTimescale p marked (decide was) false u = u := by
  unfold handToTimescale
  refine if_neg fun handed => ?_
  rw [Bool.and_eq_true, Bool.and_eq_true, decide_eq_true_iff, decide_eq_true_iff] at handed
  obtain ⟨⟨isWas, _⟩, selected⟩ := handed
  exact other.elim (fun none => none isWas) fun apart => apart selected

theorem handToTimescale_faulted {marked was : Bool} {u : State} : handToTimescale p marked was true u = u := by
  unfold handToTimescale
  refine if_neg ?_
  rw [Bool.not_true, Bool.and_false, Bool.false_and]
  exact Bool.false_ne_true

/-! ## Unmarked steps (R30, R32) -/

theorem unmarkedStep_within (within : (s.mon p).stepsSinceMark < (s.mon p).config.stepsPerSecond) :
    unmarkedStep p s =
      handToTimescale p false (decide (s.disc.selected = some p)) false
        (setMon p { acceptedMonitor (s.mon p) s.elapsed with stepsSinceMark := (s.mon p).stepsSinceMark + 1 } s) := by
  have counted : countStep p (setMon p ((s.mon p).accept s.elapsed) s) =
      setMon p { acceptedMonitor (s.mon p) s.elapsed with stepsSinceMark := (s.mon p).stepsSinceMark + 1 } s := by
    rw [countStep_within _ (by rw [setMon_mon]; exact within), setMon_mon, setMon_setMon]
    rfl
  unfold unmarkedStep
  dsimp only
  rw [counted, decide_eq_false (Nat.not_lt.mpr within)]

/-- An unmarked step too many is charged, and no charge is handed on (R32, R37). -/
theorem unmarkedStep_beyond (beyond : (s.mon p).config.stepsPerSecond ≤ (s.mon p).stepsSinceMark) :
    unmarkedStep p s = countStep p (setMon p ((s.mon p).accept s.elapsed) s) := by
  unfold unmarkedStep
  dsimp only
  rw [decide_eq_true (Nat.lt_succ_of_le beyond), handToTimescale_faulted]

/-! ## The checks of a marked step (R33, R34, R36) -/

theorem chargeUnless_passes (k : FaultKind) : chargeUnless p true k s = s := if_pos rfl

theorem chargeUnless_charges {passes : Bool} {k : FaultKind} (fails : passes = false) (stands : hasFailed p s = false) :
    chargeUnless p passes k s = charge p k s := by
  rw [chargeUnless, fails, stands]
  rfl

theorem chargeUnless_failed {passes : Bool} {k : FaultKind} (failed : hasFailed p s = true) :
    chargeUnless p passes k s = s := by
  rw [chargeUnless, failed, Bool.or_true]
  rfl

/-- The RATE check passes or is not made (R33). -/
def ratePasses (m : Monitor) (at_ : Nat) : Bool :=
  match rateInterval m at_ with
  | some i => rateOk i
  | none => true

/-- The checks of a marked step, one after the other. -/
theorem markChecks_eq (p : Path) (m : Monitor) (s : State) :
    markChecks p m s =
      let rated := chargeUnless p (ratePasses m s.elapsed) .rate
        (chargeUnless p (m.firstMarkPending || residueOk m) .residue s)
      chargeUnless p (skewOk p rated) .skew rated := rfl

theorem rateOk_iff (i : Nat) : rateOk i = true ↔ 124987500 ≤ i ∧ i ≤ 125012500 := decide_eq_true_iff

theorem residueOk_iff (m : Monitor) : residueOk m = true ↔ m.stepsSinceMark + 1 = m.config.stepsPerSecond :=
  decide_eq_true_iff

/-- The interval between two marks, where RATE judges it. -/
theorem rateInterval_of {m : Monitor} {at_ prev : Nat} (judged : m.firstMarkPending = false)
    (residue : m.stepsSinceMark + 1 = m.config.stepsPerSecond) (previous : m.previousMark = some prev) :
    rateInterval m at_ = some (at_ - prev) := by
  rw [rateInterval, judged, (residueOk_iff m).mpr residue, previous]
  rfl

theorem rateInterval_none {m : Monitor} {at_ : Nat}
    (unjudged : m.firstMarkPending = true ∨ m.stepsSinceMark + 1 ≠ m.config.stepsPerSecond ∨ m.previousMark = none) :
    rateInterval m at_ = none := by
  unfold rateInterval
  split
  · rename_i judged
    rw [Bool.and_eq_true, residueOk_iff] at judged
    obtain ⟨pending, residue⟩ := judged
    rcases unjudged with first | wrong | absent
    · rw [first] at pending
      cases pending
    · exact absurd residue wrong
    · rw [absent]
      rfl
  · rfl

theorem ratePasses_none {m : Monitor} {at_ : Nat} (none : rateInterval m at_ = none) : ratePasses m at_ = true := by
  unfold ratePasses
  rw [none]

theorem ratePasses_some {m : Monitor} {at_ i : Nat} (some : rateInterval m at_ = some i) :
    ratePasses m at_ = rateOk i := by
  unfold ratePasses
  rw [some]

/-- Neither of the first two checks charges anything exactly where the mark is free of their faults. -/
theorem faultFree_passes {m : Monitor} {at_ : Nat} (free : FaultFreeMark m at_) :
    (m.firstMarkPending || residueOk m) = true ∧ ratePasses m at_ = true := by
  rcases free with first | ⟨residue, rates⟩
  · exact ⟨by rw [first]; rfl, ratePasses_none (rateInterval_none (.inl first))⟩
  · refine ⟨by rw [(residueOk_iff m).mpr residue, Bool.or_true], ?_⟩
    cases pending : m.firstMarkPending with
    | true => exact ratePasses_none (rateInterval_none (.inl pending))
    | false =>
      cases previous : m.previousMark with
      | none => exact ratePasses_none (rateInterval_none (.inr (.inr previous)))
      | some prev =>
        rw [ratePasses_some (rateInterval_of pending residue previous)]
        exact (rateOk_iff _).mpr (rates prev previous)

/-- A folded distance is the one in range that is congruent. -/
theorem foldTicks_unique {z d : Int} (least : -62499999 ≤ d) (most : d ≤ 62500000) (congruent : (z - d) % 125000000 = 0) :
    d = foldTicks z := by
  have range := foldTicks_range z
  have folded := foldTicks_congr z
  omega

theorem skewOk_iff (p : Path) (s : State) : skewOk p s = true ↔ SkewPasses p s := by
  unfold skewOk SkewPasses
  cases selected : s.disc.selected with
  | none => exact ⟨fun _ _ _ h => (nomatch h), fun _ => rfl⟩
  | some q =>
    dsimp only
    by_cases same : q = p
    · rw [if_pos same]
      exact ⟨fun _ r _ h other => absurd (Option.some.inj h ▸ same) other, fun _ => rfl⟩
    rw [if_neg same]
    cases accepted : (s.mon q).lastAcceptedMark with
    | none =>
      refine ⟨fun _ r mark h _ found => ?_, fun _ => rfl⟩
      cases h
      rw [accepted] at found
      cases found
    | some mark =>
      rw [decide_eq_true_iff]
      constructor
      · intro close r found h _ isMark
        cases h
        rw [accepted] at isMark
        cases isMark
        obtain ⟨least, most⟩ := foldTicks_range ((s.elapsed : Int) - mark)
        have congruent := foldTicks_congr ((s.elapsed : Int) - mark)
        exact ⟨foldTicks ((s.elapsed : Int) - mark), least, most, by omega, close⟩
      · intro passes
        obtain ⟨d, least, most, congruent, close⟩ := passes q mark rfl same accepted
        rwa [foldTicks_unique least most congruent] at close

/-- SKEW looks at the other path's mark and at this path's limit alone (R34). -/
theorem skewOk_setMon {m : Monitor} (config : m.config = (s.mon p).config) : skewOk p (setMon p m s) = skewOk p s := by
  unfold skewOk
  rw [setMon_disc, setMon_elapsed, setMon_mon, config]
  cases s.disc.selected with
  | none => rfl
  | some q =>
    dsimp only
    by_cases same : q = p
    · rw [if_pos same, if_pos same]
    · rw [setMon_mon_ne s m same]

/-! ## The state in which the checks are made -/

/-- The monitor of an accepted marked step, its flag lowered for the checks. -/
def lowered (s : State) (p : Path) : Monitor := { acceptedMonitor (s.mon p) s.elapsed with faultSinceMark := false }

theorem checkedStep_eq (p : Path) (s : State) :
    checkedStep p s = markChecks p (s.mon p) (setMon p (lowered s p) s) := rfl

theorem notFailed_of_watches (watches : (s.mon p).state.watches = true) : hasFailed p s = false :=
  decide_eq_false fun failed => by rw [failed] at watches; exact nomatch watches

theorem lowered_stands (watches : (s.mon p).state.watches = true) : hasFailed p (setMon p (lowered s p) s) = false :=
  notFailed_of_watches (by rw [setMon_mon]; exact watches)

theorem charged_flag {m : Monitor} (k : FaultKind) (now : TimeValue) (flag : Bool) (watches : m.state.watches = true) :
    ({ m with faultSinceMark := flag } : Monitor).charged k now = m.charged k now := by
  obtain ⟨config, state, ref, window, steps, previous, last, first, fault, clean, suspects, silence, holdOff, totals,
    lastFault⟩ := m
  cases state with
  | qualifying => rfl
  | good => rfl
  | suspect => rfl
  | disabled => cases watches
  | absent => cases watches
  | failed => cases watches

/-- A charge raises the flag, so it does not matter whether it stood before. -/
theorem charge_lowered (watches : (s.mon p).state.watches = true) (k : FaultKind) :
    charge p k (setMon p (lowered s p) s) = charge p k (setMon p (acceptedMonitor (s.mon p) s.elapsed) s) := by
  have charged : (lowered s p).charged k s.ts.now = (acceptedMonitor (s.mon p) s.elapsed).charged k s.ts.now :=
    charged_flag k s.ts.now false watches
  rw [charge_eq, charge_eq]
  simp only [changePath, setMon_mon, setMon_setMon, setMon_ts, charged]
  rfl

/-- A charge that leaves the path standing raises the flag (R36). -/
theorem charged_standing {m : Monitor} {k : FaultKind} {now : TimeValue} (watches : m.state.watches = true)
    (stands : (m.charged k now).state ≠ .failed) :
    (m.charged k now).faultSinceMark = true ∧ (m.charged k now).state.watches = true := by
  rcases m.charged_cases k now with ⟨idle, _⟩ | ⟨state, e⟩ | ⟨_, _, e⟩ | ⟨state, _, e⟩ | ⟨_, e⟩
  · rw [watches] at idle
    cases idle
  · rw [e]
    exact ⟨rfl, watches⟩
  · rw [e]
    exact ⟨rfl, rfl⟩
  · rw [e]
    exact ⟨rfl, watches⟩
  · rw [e] at stands
    exact absurd rfl stands

/-! ## Marked steps -/

theorem markedStep_failed (failed : ((checkedStep p s).mon p).state = .failed) : markedStep p s = checkedStep p s := by
  rw [markedStep_eq]
  exact if_pos (decide_eq_true failed)

/-- A marked step at which something was charged opens a second that is not clean, and is not handed on. -/
theorem markedStep_faulted (stands : ((checkedStep p s).mon p).state ≠ .failed)
    (faulted : ((checkedStep p s).mon p).faultSinceMark = true) :
    markedStep p s = setMon p (openedSecond ((checkedStep p s).mon p) s.elapsed) (checkedStep p s) := by
  have unclean : cleanInterval (s.mon p) ((checkedStep p s).mon p) s.elapsed = none := by
    rw [cleanInterval, faulted, Bool.or_true]
    rfl
  have standing : hasFailed p (checkedStep p s) = false := decide_eq_false stands
  rw [markedStep_eq, standing, if_neg Bool.false_ne_true, faulted, handToTimescale_faulted, endedSecond, unclean]
  rfl

theorem checkedStep_faultFree (free : FaultFreeMark (s.mon p) s.elapsed)
    (skew : SkewPasses p s) : checkedStep p s = setMon p (lowered s p) s := by
  obtain ⟨residue, rate⟩ := faultFree_passes free
  rw [checkedStep_eq, markChecks_eq, residue, setMon_elapsed, rate, chargeUnless_passes, chargeUnless_passes]
  dsimp only
  rw [skewOk_setMon (by rfl), (skewOk_iff p s).mpr skew, chargeUnless_passes]

/-- A marked step at which nothing is charged: the second it ends, and then the timescale. -/
theorem markedStep_faultFree (watches : (s.mon p).state.watches = true) (free : FaultFreeMark (s.mon p) s.elapsed)
    (skew : SkewPasses p s) :
    markedStep p s = handToTimescale p true (decide (s.disc.selected = some p)) false (endedSecond p s) := by
  have checked := checkedStep_faultFree free skew
  have stands : hasFailed p (checkedStep p s) = false := by rw [checked]; exact lowered_stands watches
  have clean : ((checkedStep p s).mon p).faultSinceMark = false := by rw [checked, setMon_mon]; rfl
  rw [markedStep_eq, stands, clean]
  rfl

theorem openedStep_faultFree (free : FaultFreeMark (s.mon p) s.elapsed)
    (skew : SkewPasses p s) : openedStep p s = openSecond p s := by
  rw [openedStep, checkedStep_faultFree free skew, setMon_mon, setMon_setMon]
  rfl

/-- The second that ends at a fault-free mark is not clean if it began before the mark was known, or had a fault (R35). -/
theorem endedSecond_unclean (free : FaultFreeMark (s.mon p) s.elapsed)
    (skew : SkewPasses p s)
    (unclean : (s.mon p).firstMarkPending = true ∨ (s.mon p).previousMark = none ∨ (s.mon p).faultSinceMark = true) :
    endedSecond p s = openSecond p s := by
  have none : cleanInterval (s.mon p) ((checkedStep p s).mon p) s.elapsed = none := by
    unfold cleanInterval
    split
    · rfl
    · rename_i clean
      rw [rateInterval_none]
      · rfl
      · rcases unclean with first | absent | fault
        · exact .inl first
        · exact .inr (.inr absent)
        · rw [fault, Bool.true_or] at clean
          exact absurd rfl clean
  rw [endedSecond, none]
  exact openedStep_faultFree free skew

theorem endedSecond_clean (free : FaultFreeMark (s.mon p) s.elapsed)
    (skew : SkewPasses p s) {prev : Nat} (judged : (s.mon p).firstMarkPending = false)
    (clean : (s.mon p).faultSinceMark = false) (previous : (s.mon p).previousMark = some prev) :
    endedSecond p s = cleanSecond p (s.elapsed - prev) (openSecond p s) := by
  obtain ⟨residue, rates⟩ := free.resolve_left (by rw [judged]; nofun)
  have kept : ((checkedStep p s).mon p).faultSinceMark = false := by
    rw [checkedStep_faultFree free skew, setMon_mon]
    rfl
  have interval : cleanInterval (s.mon p) ((checkedStep p s).mon p) s.elapsed = some (s.elapsed - prev) := by
    rw [cleanInterval, clean, kept, rateInterval_of judged residue previous]
    exact Option.filter_some_pos ((rateOk_iff _).mpr (rates prev previous))
  rw [endedSecond, interval]
  dsimp only
  rw [openedStep_faultFree free skew]

end Steps

end Sys2Proof.Machine

/-! PROOFS. The obligations about the steps of a path. -/

namespace Sys2Proof.Machine

section Judged

variable {s : State} {p : Path}

/-- Settles O40, by the state of the path and the time of the step. -/
theorem referenceStepIsJudged : Obligations.ReferenceStepIsJudged := by
  intro s p mark running m c
  have taken := step_taken running p mark
  refine ⟨fun idle => ?_, fun absent => ?_, fun watches ref reference => ⟨fun early => ?_, fun late low within => ?_⟩⟩
  · rw [taken]
    refine congrArg _ ?_
    unfold takeStep
    rcases idle with state | state <;> rw [state]
  · have started : takeStep p (decide (mark = .high)) s =
        changePath p ((s.mon p).startQualifying (decide (mark = .high)) s.elapsed) none s := by
      unfold takeStep
      rw [show (s.mon p).state = .absent from absent]
    rw [taken, started, changePath, show (s.mon p).state = .absent from absent]
    cases mark <;> rfl
  · rw [taken, takeStep_watching watches, judgeStep_early reference early]
  · intro counted
    subst low
    rw [step_unmarked running ⟨watches, ref, reference, late⟩, unmarkedStep_within within]
    refine ⟨fun other => ?_, fun selected => ?_⟩
    · rw [handToTimescale_other (.inl other)]
      rfl
    · rw [decide_eq_true selected]
      have kept : counted.disc.selected = some p := (congrArg Discipline.selected (setMon_disc s p _)).trans selected
      exact congrArg _ (handToTimescale_selected kept)

/-! ## The faults charged at a step -/

/-- The one of RESIDUE and RATE that is charged at a marked step, if either is (R33). -/
def MarkFault (m : Monitor) (at_ : Nat) (k : FaultKind) : Prop :=
  (m.firstMarkPending = false ∧ m.stepsSinceMark + 1 ≠ m.config.stepsPerSecond ∧ k = .residue) ∨
    (m.firstMarkPending = false ∧ m.stepsSinceMark + 1 = m.config.stepsPerSecond ∧ k = .rate ∧
      ∃ prev, m.previousMark = some prev ∧ (at_ - prev < 124987500 ∨ 125012500 < at_ - prev))

/-- After a fault of the mark, SKEW is judged in the state that its charge has left (log entry 26). -/
theorem checkedStep_markFault {k : FaultKind} (watches : (s.mon p).state.watches = true)
    (fault : MarkFault (s.mon p) s.elapsed k) :
    checkedStep p s =
      chargeUnless p (skewOk p (charge p k (setMon p (acceptedMonitor (s.mon p) s.elapsed) s))) .skew
        (charge p k (setMon p (acceptedMonitor (s.mon p) s.elapsed) s)) := by
  rw [checkedStep_eq, markChecks_eq, setMon_elapsed]
  rcases fault with ⟨judged, wrong, rfl⟩ | ⟨judged, residue, rfl, prev, previous, outside⟩
  · have fails : ((s.mon p).firstMarkPending || residueOk (s.mon p)) = false := by
      rw [judged, Bool.eq_false_iff.mpr (mt (residueOk_iff _).mp wrong)]
      rfl
    rw [ratePasses_none (rateInterval_none (.inr (.inl wrong))), chargeUnless_charges fails (lowered_stands watches),
      charge_lowered watches, chargeUnless_passes]
  · have passes : ((s.mon p).firstMarkPending || residueOk (s.mon p)) = true := by
      rw [(residueOk_iff _).mpr residue, Bool.or_true]
    have fails : ratePasses (s.mon p) s.elapsed = false := by
      rw [ratePasses_some (rateInterval_of judged residue previous), Bool.eq_false_iff]
      exact mt (rateOk_iff _).mp (by omega)
    rw [passes, chargeUnless_passes, chargeUnless_charges fails (lowered_stands watches), charge_lowered watches]

/-- A mark without those faults is charged SKEW alone. -/
theorem checkedStep_skew (watches : (s.mon p).state.watches = true) (free : FaultFreeMark (s.mon p) s.elapsed)
    (skew : ¬ SkewPasses p s) :
    checkedStep p s = charge p .skew (setMon p (acceptedMonitor (s.mon p) s.elapsed) s) := by
  obtain ⟨residue, rate⟩ := faultFree_passes free
  have fails : skewOk p (setMon p (lowered s p) s) = false := by
    rw [skewOk_setMon (by rfl), Bool.eq_false_iff]
    exact mt (skewOk_iff p s).mp skew
  rw [checkedStep_eq, markChecks_eq, residue, setMon_elapsed, rate, chargeUnless_passes, chargeUnless_passes]
  dsimp only
  rw [chargeUnless_charges fails (lowered_stands watches), charge_lowered watches]

/-- The monitor of an accepted step, charged: it stands flagged, or it has failed. -/
theorem charge_accepted_standing {k : FaultKind} (watches : (s.mon p).state.watches = true)
    (stands : ((charge p k (setMon p (acceptedMonitor (s.mon p) s.elapsed) s)).mon p).state ≠ .failed) :
    ((charge p k (setMon p (acceptedMonitor (s.mon p) s.elapsed) s)).mon p).faultSinceMark = true ∧
      ((charge p k (setMon p (acceptedMonitor (s.mon p) s.elapsed) s)).mon p).state.watches = true := by
  rw [charge_mon, setMon_mon] at stands ⊢
  exact charged_standing watches stands

theorem charge_standing {k : FaultKind} {t : State} (watches : (t.mon p).state.watches = true)
    (stands : ((charge p k t).mon p).state ≠ .failed) : ((charge p k t).mon p).faultSinceMark = true := by
  rw [charge_mon] at stands ⊢
  exact (charged_standing watches stands).1

/-- A marked step whose checks end in a given state, failed or standing with its flag raised. -/
theorem markedStep_checked {t : State} (checked : checkedStep p s = t) :
    ((t.mon p).state = .failed → markedStep p s = t) ∧
      ((t.mon p).state ≠ .failed → (t.mon p).faultSinceMark = true →
        markedStep p s = setMon p (openedSecond (t.mon p) s.elapsed) t) := by
  subst checked
  exact ⟨markedStep_failed, markedStep_faulted⟩

/-- Settles O30: the count, the fault of the mark, and SKEW. -/
theorem faultsAreChargedAtTheStep : Obligations.FaultsAreChargedAtTheStep := by
  intro s p running m accepted opens onTime
  have watches : (s.mon p).state.watches = true := onTime.1
  have marked := step_marked running onTime
  refine ⟨fun beyond => ?_, fun k fault => ?_, fun free skew => ?_⟩
  · intro charged
    have counted : setMon p ((setMon p ((s.mon p).accept s.elapsed) s).mon p).stepCounted
        (setMon p ((s.mon p).accept s.elapsed) s) =
        setMon p { accepted with stepsSinceMark := m.stepsSinceMark + 1 } s := by
      rw [setMon_mon, setMon_setMon]
      rfl
    have step : exec (.referenceStep p .low) s = .next
        (if hasFailed p charged then charged
          else setMon p { charged.mon p with stepsSinceMark := 1, previousMark := none } charged) := by
      rw [step_unmarked running onTime, unmarkedStep_beyond beyond, countStep_beyond _ (by rw [setMon_mon]; exact beyond),
        counted]
    rw [step]
    exact ⟨fun failed => congrArg _ (if_pos (decide_eq_true failed)),
      fun stands => congrArg _ (if_neg (mt of_decide_eq_true stands))⟩
  · intro charged again
    have checked : checkedStep p s = chargeUnless p (skewOk p charged) .skew charged := checkedStep_markFault watches fault
    have standing (stands : (charged.mon p).state ≠ .failed) :
        (charged.mon p).faultSinceMark = true ∧ (charged.mon p).state.watches = true :=
      charge_accepted_standing watches stands
    refine ⟨fun failed => ?_, fun stands passes => ?_, fun stands skews => ?_⟩
    · rw [chargeUnless_failed (decide_eq_true failed)] at checked
      rw [marked, (markedStep_checked checked).1 failed]
    · rw [(skewOk_iff p charged).mpr passes, chargeUnless_passes] at checked
      rw [marked, (markedStep_checked checked).2 stands (standing stands).1]
    · rw [chargeUnless_charges (Bool.eq_false_iff.mpr (mt (skewOk_iff p charged).mp skews)) (decide_eq_false stands)]
        at checked
      obtain ⟨ends, goesOn⟩ := markedStep_checked checked
      rw [marked]
      exact ⟨fun failed => congrArg _ (ends failed),
        fun stays => congrArg _ (goesOn stays (charge_standing (standing stands).2 stays))⟩
  · intro charged
    obtain ⟨ends, goesOn⟩ := markedStep_checked (checkedStep_skew watches free skew)
    rw [marked]
    exact ⟨fun failed => congrArg _ (ends failed),
      fun stays => congrArg _ (goesOn stays (charge_accepted_standing watches stays).1)⟩

end Judged

section Seconds

variable {s : State} {p : Path}

/-! ## Clean seconds (R35, R39, R41, R64) -/

/-- The state in which a clean second is counted: the estimate has learned from it if its path is selected (R64). -/
def learnedFrom (p : Path) (ticks : Nat) (s : State) : State :=
  if s.disc.selected = some p then handCleanSecond ticks s else s

theorem learnedFrom_eq (p : Path) (ticks : Nat) (s : State) :
    learnedFrom p ticks s =
      { s with disc := { s.disc with freqEstimate := (learnedFrom p ticks s).disc.freqEstimate } } := by
  unfold learnedFrom handCleanSecond
  split
  · split <;> rfl
  · rfl

theorem learnedFrom_none {ticks : Nat} (apart : s.disc.selected ≠ some p ∨ s.disc.state ≠ .locked) :
    learnedFrom p ticks s = s := by
  unfold learnedFrom handCleanSecond
  split
  · rename_i selected
    exact if_neg (apart.resolve_left (absurd selected))
  · rfl

theorem learnedFrom_locked {ticks : Nat} (selected : s.disc.selected = some p) (locked : s.disc.state = .locked) :
    learnedFrom p ticks s =
      { s with disc :=
        { s.disc with
          freqEstimate := s.disc.freqEstimate + (((ticks : Int) - 125000000) * 8 - s.disc.freqEstimate).tdiv 8 } } :=
  (if_pos selected).trans (if_pos locked)

theorem learnedFrom_mon (p q : Path) (ticks : Nat) (s : State) : (learnedFrom p ticks s).mon q = s.mon q := by
  rw [learnedFrom_eq]
  cases q <;> rfl

theorem cleanSecond_good {ticks : Nat} (good : (s.mon p).state = .good) : cleanSecond p ticks s = learnedFrom p ticks s := by
  have same : ((learnedFrom p ticks s).mon p).state = .good := by rw [learnedFrom_mon]; exact good
  unfold cleanSecond
  dsimp only
  rw [show (if s.disc.selected = some p then handCleanSecond ticks s else s) = learnedFrom p ticks s from rfl, same]

/-- In QUALIFYING and in SUSPECT a clean second counts toward GOOD (R39, R41). -/
theorem cleanSecond_counting {ticks marks : Nat}
    (counting : ((s.mon p).state = .qualifying ∧ marks = (s.mon p).config.qualifyMarks) ∨
      ((s.mon p).state = .suspect ∧ marks = (s.mon p).config.recoverMarks)) :
    cleanSecond p ticks s =
      if marks ≤ (s.mon p).cleanCount + 1 then changePath p (s.mon p).toGood none (learnedFrom p ticks s)
      else setMon p { s.mon p with cleanCount := (s.mon p).cleanCount + 1 } (learnedFrom p ticks s) := by
  have kept := learnedFrom_mon p p ticks s
  unfold cleanSecond
  dsimp only
  rw [show (if s.disc.selected = some p then handCleanSecond ticks s else s) = learnedFrom p ticks s from rfl, kept]
  rcases counting with ⟨state, rfl⟩ | ⟨state, rfl⟩ <;> rw [state]

/-- Settles O41: the fault-free mark, the clean second, and RESIDUE in QUALIFYING. -/
theorem markedStepEndsASecond : Obligations.MarkedStepEndsASecond := by
  refine ⟨fun s p running => ?_, fun s p ticks => ?_, fun s p running onTime => ?_⟩
  · intro m onTime free skew opened
    have step : exec (.referenceStep p .high) s = _ :=
      (step_marked running onTime).trans (congrArg _ (markedStep_faultFree onTime.1 free skew))
    refine ⟨fun unclean => ?_, fun prev judged clean previous => ?_⟩
    · rw [endedSecond_unclean free skew unclean] at step
      refine ⟨fun selected => ?_, fun other => ?_⟩
      · have kept : opened.disc.selected = some p := (congrArg Discipline.selected (setMon_disc s p _)).trans selected
        rw [step, decide_eq_true selected, handToTimescale_selected kept]
      · rw [step, handToTimescale_other (.inl other)]
    · intro cleaned
      rw [endedSecond_clean free skew judged clean previous] at step
      refine ⟨fun was selected => ?_, fun other => ?_⟩
      · rw [step, decide_eq_true was, handToTimescale_selected selected]
      · rw [step, handToTimescale_other other]
  · intro m c good
    refine ⟨learnedFrom p ticks s, learnedFrom_eq p ticks s, learnedFrom_none, fun marks counting => ?_, cleanSecond_good⟩
    have counted := cleanSecond_counting (ticks := ticks) counting
    refine ⟨fun few => counted.trans (if_neg (Nat.not_le.mpr few)), fun enough => (counted.trans (if_pos enough)).trans ?_⟩
    rw [changePath, learnedFrom_mon]
    rfl
  · intro m judged wrong qualifying unselected
    have fault : MarkFault (s.mon p) s.elapsed .residue := .inl ⟨judged, wrong, rfl⟩
    have watches := onTime.1
    have charged : charge p .residue (setMon p (acceptedMonitor (s.mon p) s.elapsed) s) =
        setMon p { (acceptedMonitor (s.mon p) s.elapsed).withFault .residue s.ts.now with cleanCount := 0 } s := by
      have monitor : (acceptedMonitor (s.mon p) s.elapsed).charged .residue s.ts.now =
          { (acceptedMonitor (s.mon p) s.elapsed).withFault .residue s.ts.now with cleanCount := 0 } := by
        unfold Monitor.charged
        rw [show (acceptedMonitor (s.mon p) s.elapsed).state = .qualifying from qualifying]
      rw [charge_of_same, setMon_mon, setMon_setMon, setMon_ts, monitor]
      rw [setMon_mon, setMon_ts, monitor]
      rfl
    have passes : skewOk p (setMon p { (acceptedMonitor (s.mon p) s.elapsed).withFault .residue s.ts.now with
        cleanCount := 0 } s) = true := by
      refine (skewOk_iff p _).mpr fun q mark selected => ?_
      rw [setMon_disc, unselected] at selected
      cases selected
    have checked := checkedStep_markFault watches fault
    rw [charged, passes, chargeUnless_passes] at checked
    have stands : ((acceptedMonitor (s.mon p) s.elapsed).withFault .residue s.ts.now).state ≠ .failed := by
      rw [show ((acceptedMonitor (s.mon p) s.elapsed).withFault .residue s.ts.now).state = .qualifying from qualifying]
      nofun
    have ended := (markedStep_checked checked).2 (by rw [setMon_mon]; exact stands) (by rw [setMon_mon]; rfl)
    rw [step_marked running onTime, ended, setMon_mon, setMon_setMon]
    rfl

end Seconds

end Sys2Proof.Machine

/-! PROOFS. Acquisition, anchoring by steps, and the measurement of a switch. -/

namespace Sys2Proof.Machine

section Acquisition

variable {s : State}

/-! ## Acquisition (R18 to R20, R57) -/

theorem measuredOffset_eq (valid : s.ts.now.Valid) : measuredOffset s = foldedTick s.ts.now.tick := by
  have inSecond := valid.2
  unfold measuredOffset foldTicks foldedTick
  split <;> omega

theorem acquiresBySlew_iff (s : State) :
    acquiresBySlew s = true ↔
      s.disc.config.acquireMode = .alwaysSlew ∨ (measuredOffset s).natAbs ≤ s.disc.config.acquireSlewLimit := by
  rw [acquiresBySlew, Bool.or_eq_true, decide_eq_true_iff, decide_eq_true_iff]

/-- The controller that has become LOCKED (R57). -/
def Discipline.lockedNow (d : Discipline) : Discipline :=
  { d with state := .locked, holdoverTimer := none, returnState := .free }

theorem enterLocked_disc (s : State) : (enterLocked s).disc = s.disc.lockedNow := handOnDiscipline_disc _

theorem enterLocked_journal (s : State) :
    (enterLocked s).journal =
      journalAfter s.ts.era s.ts.now (.discipline s.disc.state .locked s.disc.selected) s.journal :=
  handOnDiscipline_journal _ _

theorem enterLocked_raises (s : State) :
    (enterLocked s).attn.stateOf .discipline = (s.attn.stateOf .discipline).whenRaised := handOnDiscipline_stateOf _ _

theorem enterLocked_era (s : State) : (enterLocked s).attn.stateOf .era = s.attn.stateOf .era := by
  unfold enterLocked handOnDiscipline
  dsimp only
  rw [raise_other _ (show AttnKind.discipline ≠ .era from nofun), appendRecord_stateOf _ _ .era nofun nofun]
  rfl

theorem enterLocked_frame (s : State) : (enterLocked s).sched = s.sched ∧ (enterLocked s).lines = s.lines := by
  unfold enterLocked handOnDiscipline
  exact ⟨by simp, by simp⟩

theorem declareEra_discipline (cause : EraCause) (s : State) :
    (declareEra cause s).attn.stateOf .discipline = s.attn.stateOf .discipline := by
  unfold declareEra
  dsimp only
  rw [raise_other _ (show AttnKind.era ≠ .discipline from nofun), appendRecord_stateOf _ _ .discipline nofun nofun]
  rfl

theorem completeAcquisition_slew (slews : acquiresBySlew s = true) :
    completeAcquisition s = enterLocked (beginAnchored (measuredOffset s) (-(measuredOffset s)) s) := if_pos slews

theorem completeAcquisition_jump (jumps : ¬ acquiresBySlew s = true) : completeAcquisition s = acquireJump s :=
  if_neg jumps

/-- A timescale that jumps to the start of a second and is anchored there (R14, R20). -/
def Timescale.jumpedTo (sec : Nat) (t : Timescale) : Timescale :=
  { t with
    now := ⟨sec, 0⟩
    phaseOffset := 0
    remainingSlew := 0
    slewAmount := 0
    slewLeft := 0
    slewLost := 0
    freeRun := ⟨0, 0, 0, 0⟩
    hold := none
    switchPending := false
    boundaryDue := false }

/-- The staged load, if one stands, taken at once (R8). -/
def Timescale.loaded (t : Timescale) : Timescale :=
  match t.stagedLoad with
  | none => t
  | some v => { t with now := ⟨v, t.now.tick⟩, stagedLoad := none, timeState := .set }

theorem Timescale.loaded_none {t : Timescale} (none : t.stagedLoad = none) : t.loaded = t := by
  rw [Timescale.loaded, none]

theorem Timescale.loaded_some {t : Timescale} {v : Nat} (some : t.stagedLoad = some v) :
    t.loaded = { t with now := ⟨v, t.now.tick⟩, stagedLoad := none, timeState := .set } := by
  rw [Timescale.loaded, some]

theorem Timescale.loaded_era (t : Timescale) : t.loaded.era = t.era := by
  unfold Timescale.loaded
  cases t.stagedLoad <;> rfl

section

variable (sec : Nat) (t : Timescale)

theorem Timescale.jumpedTo_load : (t.jumpedTo sec).stagedLoad = t.stagedLoad := rfl

theorem Timescale.jumpedTo_era : (t.jumpedTo sec).era = t.era := rfl

/-- Where a timescale stands when it has jumped and taken the staged load. -/
theorem Timescale.jumpedTo_loaded_standing :
    (t.jumpedTo sec).loaded.now.tick = 0 ∧ (t.jumpedTo sec).loaded.phaseOffset = 0 ∧
      (t.jumpedTo sec).loaded.remainingSlew = 0 ∧ (t.jumpedTo sec).loaded.slewAmount = 0 ∧
      (t.jumpedTo sec).loaded.stagedLoad = none := by
  cases load : t.stagedLoad with
  | none =>
    rw [Timescale.loaded_none (t := t.jumpedTo sec) load]
    exact ⟨rfl, rfl, rfl, rfl, load⟩
  | some v =>
    rw [Timescale.loaded_some (t := t.jumpedTo sec) load]
    exact ⟨rfl, rfl, rfl, rfl, rfl⟩

/-- Without a staged load the jump decides the second, and the time state is as it was (R20). -/
theorem Timescale.jumpedTo_loaded_none (none : t.stagedLoad = none) :
    (t.jumpedTo sec).loaded.timeState = t.timeState ∧ (t.jumpedTo sec).loaded.now.sec = sec := by
  rw [Timescale.loaded_none (t := t.jumpedTo sec) none]
  exact ⟨rfl, rfl⟩

/-- A staged load decides the second, and the time is SET (R8). -/
theorem Timescale.jumpedTo_loaded_some {v : Nat} (some : t.stagedLoad = some v) :
    (t.jumpedTo sec).loaded.timeState = .set ∧ (t.jumpedTo sec).loaded.now.sec = v := by
  rw [Timescale.loaded_some (t := t.jumpedTo sec) some]
  exact ⟨rfl, rfl⟩

end

/-- The timescale that an acquisition jump has set, ahead of its discontinuity (R20). -/
def acquiredTs (s : State) : Timescale := (s.ts.jumpedTo (jumpSecond s)).loaded

theorem acquiredTs_era (s : State) : (acquiredTs s).era = s.ts.era := by
  rw [acquiredTs, Timescale.loaded_era, Timescale.jumpedTo_era]

/-- The state that an acquisition jump has declared and locked in, and hands to the schedule (R63). -/
def acquired (s : State) : State :=
  enterLocked (declareEra (if s.ts.stagedLoad.isSome then .loadAcquire else .acquire) (setTs (acquiredTs s) s))

theorem beginAnchored_jumpedTo (sec : Nat) (s : State) :
    setTs { (beginAnchored 0 0 s).ts with now := ⟨sec, 0⟩, boundaryDue := false } (beginAnchored 0 0 s) =
      setTs (s.ts.jumpedTo sec) s := rfl

/-- The steps of a jump taken together, whatever jump follows them. -/
theorem jumpSteps_eq (sec : Nat) (forward : Bool) (jump : Bool → TimeValue → TimeValue → State → State) (s : State) :
    (let old := s.ts.now
      let based := beginAnchored 0 0 s
      let set := setTs { based.ts with now := ⟨sec, 0⟩, boundaryDue := false } based
      let loaded := match s.ts.stagedLoad with
        | none => set
        | some v => loadSeconds v set
      let cause := if s.ts.stagedLoad.isSome then EraCause.loadAcquire else EraCause.acquire
      jump forward old loaded.ts.now (enterLocked (declareEra cause loaded))) =
      jump forward s.ts.now (s.ts.jumpedTo sec).loaded.now
        (enterLocked (declareEra (if s.ts.stagedLoad.isSome then .loadAcquire else .acquire)
          (setTs (s.ts.jumpedTo sec).loaded s))) := by
  dsimp only
  rw [beginAnchored_jumpedTo, Timescale.loaded, Timescale.jumpedTo_load]
  cases s.ts.stagedLoad with
  | none => rfl
  | some v => rfl

theorem acquireJump_eq (s : State) :
    acquireJump s = takeJump (acquireForward s) s.ts.now (acquiredTs s).now (acquired s) :=
  jumpSteps_eq (jumpSecond s) (acquireForward s) takeJump s

theorem acquired_ts (s : State) : (acquired s).ts = { acquiredTs s with era := s.ts.era + 1 } := by
  rw [acquired, enterLocked_ts, declareEra_ts, setTs_ts, acquiredTs_era]

theorem acquireJump_ts (s : State) : (acquireJump s).ts = (acquired s).ts := by
  rw [acquireJump_eq, (takeJump_schedulePart _ _ _ _).ts]

theorem acquired_disc (s : State) : (acquired s).disc = s.disc.lockedNow := by
  rw [acquired, enterLocked_disc, (declareEra_clockWork _ _).disc]
  rfl

theorem acquireJump_disc (s : State) : (acquireJump s).disc = s.disc.lockedNow := by
  rw [acquireJump_eq, (takeJump_schedulePart _ _ _ _).disc, acquired_disc]

theorem acquireJump_kinds (s : State) :
    (acquireJump s).attn.stateOf .discipline = (s.attn.stateOf .discipline).whenRaised ∧
      (acquireJump s).attn.stateOf .era = (s.attn.stateOf .era).whenRaised := by
  rw [acquireJump_eq, (takeJump_schedulePart _ _ _ _).kinds .discipline nofun nofun nofun,
    (takeJump_schedulePart _ _ _ _).kinds .era nofun nofun nofun, acquired, enterLocked_raises, enterLocked_era,
    declareEra_discipline, declareEra_stateOf]
  exact ⟨rfl, rfl⟩

theorem acquired_frame (s : State) : (acquired s).sched = s.sched ∧ (acquired s).lines = s.lines := by
  obtain ⟨sched, lines⟩ := enterLocked_frame
    (declareEra (if s.ts.stagedLoad.isSome then .loadAcquire else .acquire) (setTs (acquiredTs s) s))
  obtain ⟨declared, kept⟩ := declareEra_sched (if s.ts.stagedLoad.isSome then .loadAcquire else .acquire)
    (setTs (acquiredTs s) s)
  exact ⟨sched.trans declared, lines.trans kept⟩

/-- The ERA record stands ahead of the DISCIPLINE record (R63). -/
theorem acquired_journal (s : State) :
    (acquired s).journal =
      journalAfter (s.ts.era + 1) (acquiredTs s).now (.discipline s.disc.state .locked s.disc.selected)
        (journalAfter (s.ts.era + 1) (acquiredTs s).now
          (.era (s.ts.era + 1) (if s.ts.stagedLoad.isSome then .loadAcquire else .acquire)) s.journal) := by
  have disc := (declareEra_clockWork (setTs (acquiredTs s) s)
    (if s.ts.stagedLoad.isSome then .loadAcquire else .acquire)).disc
  rw [acquired, enterLocked_journal, declareEra_journal, declareEra_ts, disc]
  simp only [setTs_ts, setTs_disc, setTs_journal, acquiredTs_era]

/-- The second that the jump alone would give, by the sign of the offset (R20). -/
theorem jumpSecond_eq (valid : s.ts.now.Valid) (nonzero : foldedTick s.ts.now.tick ≠ 0) :
    jumpSecond s =
      if 0 < foldedTick s.ts.now.tick then s.ts.now.sec else (s.ts.now.sec + 1) % 2 ^ 37 := by
  unfold jumpSecond
  rw [measuredOffset_eq valid]
  by_cases positive : 0 < foldedTick s.ts.now.tick
  · rw [if_pos positive, if_neg (by omega)]
  · rw [if_neg positive, if_pos (by omega)]
    rfl

theorem acquireForward_none (none : s.ts.stagedLoad = none) : acquireForward s = decide (measuredOffset s < 0) := by
  rw [acquireForward, none]

theorem acquireForward_some {v : Nat} (some : s.ts.stagedLoad = some v) :
    acquireForward s = true ↔
      s.ts.timeState = .set ∧ (jumpSecond s < v ∨ (v = jumpSecond s ∧ measuredOffset s < 0)) := by
  rw [acquireForward, some, Bool.and_eq_true, Bool.or_eq_true, Bool.and_eq_true, decide_eq_true_iff, decide_eq_true_iff,
    decide_eq_true_iff, decide_eq_true_iff]

/-- Where the timescale stands after an acquisition jump. -/
theorem acquireJump_standing (s : State) :
    (acquireJump s).ts.now.tick = 0 ∧ (acquireJump s).ts.phaseOffset = 0 ∧ (acquireJump s).ts.remainingSlew = 0 ∧
      (acquireJump s).ts.slewAmount = 0 ∧ (acquireJump s).ts.era = s.ts.era + 1 ∧
      (acquireJump s).ts.stagedLoad = none := by
  obtain ⟨tick, phase, remaining, amount, load⟩ := Timescale.jumpedTo_loaded_standing (jumpSecond s) s.ts
  rw [acquireJump_ts, acquired_ts, acquiredTs]
  exact ⟨tick, phase, remaining, amount, rfl, load⟩

/-- The jump of an acquisition, of the direction and the cause that it has. -/
theorem acquireJump_takes {forward : Bool} {cause : EraCause} (direction : acquireForward s = forward)
    (load : (if s.ts.stagedLoad.isSome then EraCause.loadAcquire else .acquire) = cause) :
    ∃ mid, acquireJump s = takeJump forward s.ts.now (acquireJump s).ts.now mid ∧ mid.ts = (acquireJump s).ts ∧
      mid.sched = s.sched ∧ mid.lines = s.lines ∧
      mid.journal =
        journalAfter (s.ts.era + 1) (acquireJump s).ts.now (.discipline s.disc.state .locked s.disc.selected)
          (journalAfter (s.ts.era + 1) (acquireJump s).ts.now (.era (s.ts.era + 1) cause) s.journal) := by
  subst direction load
  have now : (acquireJump s).ts.now = (acquiredTs s).now := by rw [acquireJump_ts, acquired_ts]
  obtain ⟨sched, lines⟩ := acquired_frame s
  refine ⟨acquired s, ?_, (acquireJump_ts s).symm, sched, lines, ?_⟩
  · rw [now]
    exact acquireJump_eq s
  · rw [now]
    exact acquired_journal s

/-! ## Completing an acquisition in a step -/

theorem handStep_acquiring (acquiring : s.disc.state = .acquiring) (p : Path) :
    handStep p true s = completeAcquisition s ∧ handStep p false s = s := by
  unfold handStep
  rw [acquiring]
  exact ⟨rfl, rfl⟩

theorem skewPasses_of_selected {p : Path} (selected : s.disc.selected = some p) : SkewPasses p s :=
  fun _ _ found other => absurd (Option.some.inj (found.symm.trans selected)) other

/-- At a fault-free mark of the selected path a GOOD path hands on the state with its second opened, with whatever the
estimate has learned from a clean second. -/
theorem step_marked_handed {p : Path} (running : s.run = .running) (selected : s.disc.selected = some p)
    (good : (s.mon p).state = .good) (onTime : ComesOnTime (s.mon p) s.elapsed)
    (free : FaultFreeMark (s.mon p) s.elapsed) :
    ((s.mon p).firstMarkPending = true ∨ (s.mon p).previousMark = none ∨ (s.mon p).faultSinceMark = true →
        exec (.referenceStep p .high) s = .next (handStep p true (openSecond p s))) ∧
      ∀ prev, (s.mon p).firstMarkPending = false → (s.mon p).faultSinceMark = false →
        (s.mon p).previousMark = some prev →
        exec (.referenceStep p .high) s =
          .next (handStep p true (learnedFrom p (s.elapsed - prev) (openSecond p s))) := by
  obtain ⟨unclean, clean⟩ := markedStepEndsASecond.1 s p running onTime free (skewPasses_of_selected selected)
  have opened : (openSecond p s).disc.selected = some p :=
    (congrArg Discipline.selected (setMon_disc s p _)).trans selected
  have openedGood : ((openSecond p s).mon p).state = .good := by
    rw [openSecond, setMon_mon]
    exact good
  refine ⟨fun dirty => (unclean dirty).1 selected, fun prev judged noFault previous => ?_⟩
  have step := (clean prev judged noFault previous).1 selected
  rw [cleanSecond_good openedGood] at step
  exact step (by rw [learnedFrom_eq]; exact opened)

/-- While ACQUIRING the estimate learns nothing, so the mark is handed on as it was opened (R64). -/
theorem step_marked_acquiring {p : Path} (running : s.run = .running) (acquiring : s.disc.state = .acquiring)
    (selected : s.disc.selected = some p) (good : (s.mon p).state = .good) (onTime : ComesOnTime (s.mon p) s.elapsed)
    (free : FaultFreeMark (s.mon p) s.elapsed) :
    exec (.referenceStep p .high) s = .next (completeAcquisition (openSecond p s)) := by
  obtain ⟨unclean, clean⟩ := step_marked_handed running selected good onTime free
  have disc : (openSecond p s).disc = s.disc := setMon_disc s p _
  have handed : handStep p true (openSecond p s) = completeAcquisition (openSecond p s) :=
    (handStep_acquiring (by rw [disc]; exact acquiring) p).1
  by_cases dirty : (s.mon p).firstMarkPending = true ∨ (s.mon p).previousMark = none ∨ (s.mon p).faultSinceMark = true
  · rw [unclean dirty, handed]
  · simp only [not_or, Bool.not_eq_true] at dirty
    obtain ⟨judged, some, noFault⟩ := dirty
    obtain ⟨prev, previous⟩ := Option.ne_none_iff_exists'.mp some
    rw [clean prev judged noFault previous, learnedFrom_none (.inr (by rw [disc, acquiring]; nofun)), handed]

/-- A timescale that begins to be anchored while the controller enters LOCKED (R19). -/
theorem enterLocked_beginAnchored (phase remaining : Int) (s : State) :
    (enterLocked (beginAnchored phase remaining s)).disc = s.disc.lockedNow ∧
      (enterLocked (beginAnchored phase remaining s)).attn.stateOf .discipline =
        (s.attn.stateOf .discipline).whenRaised ∧
      (enterLocked (beginAnchored phase remaining s)).sched = s.sched ∧
      (enterLocked (beginAnchored phase remaining s)).lines = s.lines ∧
      (enterLocked (beginAnchored phase remaining s)).journal =
        journalAfter s.ts.era s.ts.now (.discipline s.disc.state .locked s.disc.selected) s.journal := by
  obtain ⟨sched, lines⟩ := enterLocked_frame (beginAnchored phase remaining s)
  rw [enterLocked_disc, enterLocked_raises, sched, lines, enterLocked_journal]
  exact ⟨rfl, rfl, rfl, rfl, rfl⟩

/-- Settles O37, by the outcome of the acquisition. -/
theorem acquisitionSlewsOrJumps : Obligations.AcquisitionSlewsOrJumps := by
  refine ⟨fun s valid acquiring => ?_, fun s p acquiring => handStep_acquiring acquiring p,
    fun s p running acquiring selected good onTime free =>
      step_marked_acquiring running acquiring selected good onTime free⟩
  intro offset slews t locks
  have measured : measuredOffset s = offset := measuredOffset_eq valid
  have bySlew : acquiresBySlew s = true ↔ slews := by rw [acquiresBySlew_iff, measured]
  have locksAs : locks = .discipline s.disc.state .locked s.disc.selected := by rw [acquiring]
  by_cases outcome : slews
  · have slew : t = enterLocked (beginAnchored offset (-offset) s) := by
      rw [← measured]
      exact completeAcquisition_slew (bySlew.mpr outcome)
    clear_value offset
    obtain ⟨disc, raised, sched, lines, journal⟩ := enterLocked_beginAnchored offset (-offset) s
    rw [slew, locksAs]
    refine ⟨disc, raised, fun _ => ?_, absurd outcome⟩
    rw [enterLocked_ts]
    exact ⟨rfl, rfl, rfl, rfl, rfl, rfl, sched, lines, journal⟩
  · have jump : t = acquireJump s := completeAcquisition_jump (mt bySlew.mp outcome)
    obtain ⟨raised, eraRaised⟩ := acquireJump_kinds s
    obtain ⟨tick, phase, remaining, amount, era, load⟩ := acquireJump_standing s
    have apart : offset ≠ 0 := fun zero => outcome (.inr (by rw [zero]; exact Nat.zero_le _))
    have alone : jumpSecond s = if 0 < offset then s.ts.now.sec else (s.ts.now.sec + 1) % 2 ^ 37 :=
      jumpSecond_eq valid apart
    rw [jump]
    refine ⟨acquireJump_disc s, raised, fun slew => absurd slew outcome, fun _ =>
      ⟨tick, phase, remaining, amount, era, load, eraRaised, ?_⟩⟩
    dsimp only
    rw [← alone, ← measured, locksAs]
    have ts : (acquireJump s).ts.timeState = ((s.ts.jumpedTo (jumpSecond s)).loaded).timeState ∧
        (acquireJump s).ts.now.sec = ((s.ts.jumpedTo (jumpSecond s)).loaded).now.sec := by
      rw [acquireJump_ts, acquired_ts, acquiredTs]
      exact ⟨rfl, rfl⟩
    rw [ts.1, ts.2]
    refine ⟨fun none => ?_, fun v some => ?_⟩
    · obtain ⟨timeState, sec⟩ := Timescale.jumpedTo_loaded_none (jumpSecond s) s.ts none
      exact ⟨timeState, sec, acquireJump_takes (acquireForward_none none) (by rw [none]; rfl)⟩
    · obtain ⟨timeState, sec⟩ := Timescale.jumpedTo_loaded_some (jumpSecond s) s.ts some
      have cause : (if s.ts.stagedLoad.isSome then EraCause.loadAcquire else .acquire) = .loadAcquire := by rw [some]; rfl
      have direction := acquireForward_some some
      refine ⟨timeState, sec, fun back => acquireJump_takes ?_ cause, fun set later => acquireJump_takes ?_ cause,
        fun set same => acquireJump_takes ?_ cause⟩
      · refine Bool.eq_false_iff.mpr (mt direction.mp ?_)
        rintro ⟨set, forward⟩
        rcases back with unset | earlier
        · rw [unset] at set
          cases set
        · omega
      · exact direction.mpr ⟨set, .inl later⟩
      · rw [Bool.eq_iff_iff, direction, decide_eq_true_iff]
        constructor
        · rintro ⟨_, later | ⟨_, negative⟩⟩
          · omega
          · exact negative
        · exact fun negative => ⟨set, .inr ⟨same, negative⟩⟩

end Acquisition

end Sys2Proof.Machine

/-! PROOFS. The steps of the selected path: anchoring, and the measurement after a switch. -/

namespace Sys2Proof.Machine

section Anchoring

variable {s : State} {p : Path}

/-- A step anchors the timescale: the share of the slew, and the correction to the nominal position (R13, R16). -/
theorem anchorStep_anchors (p : Path) (s : State) : AnchoredBy p s (anchorStep p s) := by
  unfold AnchoredBy
  intro m steps lost wanted left moved
  obtain ⟨phaseLeast, phaseMost⟩ := foldTicks_range (s.ts.phaseOffset + moved)
  have phaseCongr := foldTicks_congr (s.ts.phaseOffset + moved)
  have anchored : anchorStep p s =
      correct
        (foldTicks (((m.stepsSinceMark * m.config.period % 125000000 : Nat) : Int) +
          foldTicks (s.ts.phaseOffset + moved) - s.ts.now.tick))
        (setTs
          { s.ts with
            phaseOffset := foldTicks (s.ts.phaseOffset + moved)
            slewLeft := left - moved
            slewLost := lost.tmod steps } s) := rfl
  generalize foldTicks (s.ts.phaseOffset + moved) = phase at *
  have range := foldTicks_range (((m.stepsSinceMark * m.config.period % 125000000 : Nat) : Int) + phase - s.ts.now.tick)
  have congr := foldTicks_congr (((m.stepsSinceMark * m.config.period % 125000000 : Nat) : Int) + phase - s.ts.now.tick)
  exact ⟨phase, _, phaseLeast, phaseMost, by omega, range.1, range.2, by omega, anchored⟩

/-- What is read of a free-running second changes only the count of the free values taken (log entry 4). -/
theorem unappliedParts_state (s : State) :
    (unappliedParts s).2 = { s with choices := (unappliedParts s).2.choices } := by
  unfold unappliedParts
  dsimp only
  split <;> rfl

/-- The measurement after a switch (R21). -/
theorem measureSwitch_measures (valid : s.ts.now.Valid) : MeasuredSwitch s (measureSwitch s) := by
  unfold MeasuredSwitch
  rw [← measuredOffset_eq valid]
  dsimp only
  have range := foldTicks_range (measuredOffset s - s.ts.phaseOffset)
  have congr := foldTicks_congr (measuredOffset s - s.ts.phaseOffset)
  have measured : measureSwitch s =
      setTs
        { (unappliedParts s).2.ts with
          phaseOffset := measuredOffset s
          remainingSlew := clampMag (s.ts.remainingSlew - foldTicks (measuredOffset s - s.ts.phaseOffset)) 62500000
          slewLeft := (unappliedParts s).1.1
          slewLost := 0
          freeRun := ⟨0, 0, 0, 0⟩
          switchPending := false } (unappliedParts s).2 := rfl
  rw [unappliedParts_ts] at measured
  have split := unappliedParts_split s
  have state := unappliedParts_state s
  generalize foldTicks (measuredOffset s - s.ts.phaseOffset) = difference at *
  generalize measuredOffset s = offset at *
  refine ⟨difference, (unappliedParts s).1.1, (unappliedParts s).1.2, range.1, range.2, by omega, ?_, split⟩
  rw [measured]
  conv => lhs; rw [state]
  rfl

/-! ## The steps handed on, by the state of the controller (R37) -/

theorem handStep_unlocked (idle : s.disc.state = .free ∨ s.disc.state = .holdover) (marked : Bool) :
    handStep p marked s = s := by
  unfold handStep
  rcases idle with state | state <;> rw [state]

theorem handStep_locked (locked : s.disc.state = .locked) (switched : s.ts.switchPending = false) (marked : Bool) :
    handStep p marked s = anchorStep p s := by
  unfold handStep
  rw [locked, switched]
  rfl

theorem handStep_switched (locked : s.disc.state = .locked) (pending : s.ts.switchPending = true) :
    handStep p true s = measureSwitch s ∧ handStep p false s = s := by
  unfold handStep
  rw [locked, pending]
  exact ⟨rfl, rfl⟩

/-- A marked step in LOCKED anchors, or measures the switch. -/
theorem handStep_marked_steers (locked : s.disc.state = .locked) (valid : s.ts.now.Valid) :
    (s.ts.switchPending = false → AnchoredBy p s (handStep p true s)) ∧
      (s.ts.switchPending = true → MeasuredSwitch s (handStep p true s)) := by
  refine ⟨fun switched => ?_, fun pending => ?_⟩
  · rw [handStep_locked locked switched]
    exact anchorStep_anchors p s
  · rw [(handStep_switched locked pending).1]
    exact measureSwitch_measures valid

/-- A state that shares the controller's state and the timescale is steered from alike. -/
theorem step_marked_steers {learned : State} (step : exec (.referenceStep p .high) s = .next (handStep p true learned))
    (state : learned.disc.state = s.disc.state) (ts : learned.ts = s.ts) (locked : s.disc.state = .locked)
    (valid : s.ts.now.Valid) :
    ∃ t, exec (.referenceStep p .high) s = .next t ∧ (s.ts.switchPending = false → AnchoredBy p learned t) ∧
      (s.ts.switchPending = true → MeasuredSwitch learned t) := by
  obtain ⟨anchors, measures⟩ := handStep_marked_steers (p := p) (state.trans locked) (by rw [ts]; exact valid)
  rw [ts] at anchors measures
  exact ⟨_, step, anchors, measures⟩

/-- An unmarked step within the second anchors, and between a switch and its measurement it only counts (R21, R37). -/
theorem step_unmarked_steers (running : s.run = .running) (locked : s.disc.state = .locked)
    (selected : s.disc.selected = some p) (onTime : ComesOnTime (s.mon p) s.elapsed)
    (within : (s.mon p).stepsSinceMark < (s.mon p).config.stepsPerSecond) :
    let counted :=
      setMon p { acceptedMonitor (s.mon p) s.elapsed with stepsSinceMark := (s.mon p).stepsSinceMark + 1 } s
    (s.ts.switchPending = false → ∃ t, exec (.referenceStep p .low) s = .next t ∧ AnchoredBy p counted t) ∧
      (s.ts.switchPending = true → exec (.referenceStep p .low) s = .next counted) := by
  intro counted
  have disc : counted.disc = s.disc := setMon_disc s p _
  have ts : counted.ts = s.ts := setMon_ts s p _
  have step : exec (.referenceStep p .low) s = .next (handStep p false counted) := by
    rw [step_unmarked running onTime, unmarkedStep_within within, decide_eq_true selected]
    exact congrArg _ (handToTimescale_selected ((congrArg Discipline.selected disc).trans selected))
  refine ⟨fun switched => ⟨_, step, ?_⟩, fun pending => ?_⟩
  · rw [handStep_locked (by rw [disc]; exact locked) (by rw [ts]; exact switched)]
    exact anchorStep_anchors p counted
  · rw [step, (handStep_switched (by rw [disc]; exact locked) (by rw [ts]; exact pending)).2]

/-- Settles O33, by the controller's state and the kind of the step. -/
theorem stepsOfTheSelectedPathSteerTheTimescale : Obligations.StepsOfTheSelectedPathSteerTheTimescale := by
  refine ⟨fun s p marked => ⟨fun idle => handStep_unlocked idle marked, fun locked switched => ?_,
    fun locked pending => ⟨(handStep_switched locked pending).2, fun valid =>
      (handStep_marked_steers locked valid).2 pending⟩⟩, fun s p running locked selected => ?_⟩
  · rw [handStep_locked locked switched]
    exact anchorStep_anchors p s
  intro m onTime
  refine ⟨fun within => step_unmarked_steers running locked selected onTime within, fun good free valid learned => ?_⟩
  intro dirty clean
  obtain ⟨uncleanStep, cleanStep⟩ := step_marked_handed running selected good onTime free
  have disc : (openSecond p s).disc = s.disc := setMon_disc s p _
  have ts : (openSecond p s).ts = s.ts := setMon_ts s p _
  by_cases unclean : m.firstMarkPending = true ∨ m.previousMark = none ∨ m.faultSinceMark = true
  · rw [dirty unclean]
    exact step_marked_steers (uncleanStep unclean) (congrArg Discipline.state disc) ts locked valid
  · simp only [not_or, Bool.not_eq_true] at unclean
    obtain ⟨judged, some, noFault⟩ := unclean
    obtain ⟨prev, previous⟩ := Option.ne_none_iff_exists'.mp some
    have learns := learnedFrom_locked (s := openSecond p s) (p := p) (ticks := s.elapsed - prev)
      (by rw [disc]; exact selected) (by rw [disc]; exact locked)
    rw [disc] at learns
    have step := cleanStep prev judged noFault previous
    rw [learns, ← clean prev judged previous noFault] at step
    rw [clean prev judged previous noFault] at step ⊢
    exact step_marked_steers step rfl ts locked valid

end Anchoring

end Sys2Proof.Machine

/-! PROOFS. The capture lines: an edge that is seen, accepted, recorded and offered to the schedule. -/

namespace Sys2Proof.Machine

section Capture

variable {s : State} {i : Fin 4}

/-! ## Arming (R132) -/

/-- Entries armed one after the other: only the armed list changes, and it gains just them. -/
theorem foldl_arm (place : Entry → ArmedEntry) (l : List Entry) (s : State) :
    ∃ armed, l.foldl (fun t e => arm (place e) t) s = setArmed armed s ∧
      armed.Perm (s.sched.armed ++ l.map place) := by
  induction l generalizing s with
  | nil => exact ⟨s.sched.armed, rfl, by rw [List.map_nil, List.append_nil]⟩
  | cons e rest ih =>
    obtain ⟨armed, folded, gained⟩ := ih (arm (place e) s)
    refine ⟨armed, folded, gained.trans ?_⟩
    calc insertArmed (place e) s.sched.armed ++ rest.map place
      _ |>.Perm (place e :: s.sched.armed ++ rest.map place) := (insertArmed_perm _ _).append_right _
      _ |>.Perm (s.sched.armed ++ place e :: rest.map place) := List.perm_middle.symm

theorem armWaiting_eq (i : Fin 4) (s : State) :
    ∃ armed, armWaiting i s = setArmed armed (setWaiting i [] s) ∧
      armed.Perm (s.sched.armed ++ s.sched.waiting[i].map (armedAt s.ts.now)) :=
  foldl_arm (armedAt s.ts.now) s.sched.waiting[i] (setWaiting i [] s)

/-! ## Accepting an edge (R127, R128, R131) -/

/-- A line that has accepted an edge: its dead time runs, and with one-shot its edge select is OFF. -/
def CapLine.accepted (c : CapLine) : CapLine :=
  { c.startDeadTime with select := if c.oneShot then .off else c.select }

/-- The state in which an accepted edge is recorded, its dead time started. -/
def recordedEdge (i : Fin 4) (e : Edge) (s : State) : State :=
  if s.caps[i].record then
    appendRecord (.capture i e s.ts.timeState s.disc.state) (setCap i s.caps[i].startDeadTime s)
  else setCap i s.caps[i].startDeadTime s

theorem recordedEdge_frame (i : Fin 4) (e : Edge) (s : State) :
    (recordedEdge i e s).caps = s.caps.set i s.caps[i].startDeadTime ∧ (recordedEdge i e s).sched = s.sched ∧
      (recordedEdge i e s).sampled = s.sampled ∧ (recordedEdge i e s).shown = s.shown ∧
      (recordedEdge i e s).ts = s.ts ∧ (recordedEdge i e s).disc = s.disc ∧ (recordedEdge i e s).lines = s.lines ∧
      (recordedEdge i e s).monA = s.monA ∧ (recordedEdge i e s).monB = s.monB ∧ (recordedEdge i e s).run = s.run ∧
      (recordedEdge i e s).elapsed = s.elapsed := by
  unfold recordedEdge
  split <;> simp

theorem recordedEdge_journal (i : Fin 4) (e : Edge) (s : State) :
    (recordedEdge i e s).journal =
      if s.caps[i].record then
        journalAfter s.ts.era s.ts.now (.capture i e s.ts.timeState s.disc.state) s.journal
      else s.journal := by
  unfold recordedEdge
  split
  · exact appendRecord_journal _ _
  · rfl

/-- An accepted edge in two parts: what it records and arms, and what it leaves of its line. -/
theorem acceptEdge_eq (i : Fin 4) (e : Edge) (s : State) :
    ∃ armed, armed.Perm (s.sched.armed ++ s.sched.waiting[i].map (armedAt s.ts.now)) ∧
      acceptEdge i e s =
        { setArmed armed (setWaiting i [] (recordedEdge i e s)) with caps := s.caps.set i s.caps[i].accepted } := by
  obtain ⟨caps, sched, _, _, ts, _⟩ := recordedEdge_frame i e s
  obtain ⟨armed, arms, gained⟩ := armWaiting_eq i (recordedEdge i e s)
  rw [sched, ts] at gained
  refine ⟨armed, gained, ?_⟩
  have accepted : acceptEdge i e s =
      if s.caps[i].oneShot then
        setCap i { (armWaiting i (recordedEdge i e s)).caps[i] with select := .off } (armWaiting i (recordedEdge i e s))
      else armWaiting i (recordedEdge i e s) := rfl
  rw [accepted, arms]
  generalize recordedEdge i e s = u at *
  by_cases oneShot : s.caps[i].oneShot = true
  · rw [if_pos oneShot, CapLine.accepted, if_pos oneShot, setCap, setArmed_caps, setWaiting_caps, caps]
    simp
  · rw [if_neg oneShot, CapLine.accepted, if_neg oneShot, ← show s.caps[i].startDeadTime.select = s.caps[i].select from rfl,
      ← caps]
    rfl

/-! ## Seeing a sample (R122, R127) -/

theorem edgeTo_eq (level : Level) : edgeTo level = if level = .high then .rise else .fall := by cases level <;> rfl

theorem EdgeSelect.accepts_iff (sel : EdgeSelect) (e : Edge) :
    sel.accepts e = true ↔ sel = .both ∨ (sel = .rise ∧ e = .rise) ∨ (sel = .fall ∧ e = .fall) := by
  cases sel <;> simp [EdgeSelect.accepts]

theorem takeSample_unchanged {level : Level} (same : s.caps[i].level = level) : takeSample i level s = s := if_pos same

theorem takeSample_ignored {level : Level} (changed : s.caps[i].level ≠ level)
    (ignored : ¬ s.caps[i].select.accepts (edgeTo level) = true ∨ s.caps[i].timer ≠ none) :
    takeSample i level s = setCap i { s.caps[i] with level := level } s := by
  unfold takeSample
  rw [if_neg changed]
  refine if_neg fun taken => ?_
  rw [Bool.and_eq_true, decide_eq_true_iff] at taken
  exact ignored.elim (fun unmatched => unmatched taken.1) fun dead => dead taken.2

theorem takeSample_accepted {level : Level} (changed : s.caps[i].level ≠ level)
    (matched : s.caps[i].select.accepts (edgeTo level) = true) (idle : s.caps[i].timer = none) :
    takeSample i level s = acceptEdge i (edgeTo level) (setCap i { s.caps[i] with level := level } s) := by
  unfold takeSample
  rw [if_neg changed]
  exact if_pos (by rw [matched, decide_eq_true idle]; rfl)

theorem captureEdge_taken (running : s.run = .running) (unsampled : s.sampled[i] = false) (level : Level) :
    exec (.captureEdge i level) s = .next (takeSample i level (markSampled i s)) :=
  event_of s (!s.sampled[i]) (fun t => takeSample i level (markSampled i t)) running (by rw [unsampled]; rfl)

/-- A second sample of a line at one tick is no event (log entry 30). -/
theorem captureEdge_again (sampled : s.sampled[i] = true) (level : Level) :
    exec (.captureEdge i level) s = .next s :=
  event_absent (happens := !s.sampled[i]) (fun t => takeSample i level (markSampled i t)) (by rw [sampled]; rfl)

theorem CapLine.accepted_idle {c : CapLine} (idle : c.timer = none) :
    c.accepted =
      ⟨if c.oneShot then .off else c.select, c.deadTime, c.oneShot, c.record,
        if c.deadTime = 0 then none else some c.deadTime, c.level⟩ := by
  rw [← idle]
  rfl

/-- Settles O47, by the sample, the level and the line. -/
theorem captureEdgeIsAcceptedOrIgnored : Obligations.CaptureEdgeIsAcceptedOrIgnored := by
  intro s i level running c edge matched marked
  have edgeIs : edgeTo level = edge := edgeTo_eq level
  have matches_ : c.select.accepts (edgeTo level) = true ↔ matched := by rw [EdgeSelect.accepts_iff, edgeIs]
  refine ⟨fun again => captureEdge_again again level, fun first same => ?_, fun first changed ignored => ?_,
    fun first changed fits idle => ?_⟩
  · rw [captureEdge_taken running first]
    exact congrArg _ (takeSample_unchanged same)
  · rw [captureEdge_taken running first]
    exact congrArg _ (takeSample_ignored (s := marked) changed (ignored.imp (mt matches_.mp) id))
  · have taken := takeSample_accepted (s := marked) changed (matches_.mpr fits) idle
    obtain ⟨armed, gained, accepts⟩ := acceptEdge_eq i edge (setCap i { c with level := level } marked)
    obtain ⟨_, sched, sampled, shown, ts, disc, lines, monA, monB, run, elapsed⟩ :=
      recordedEdge_frame i edge (setCap i { c with level := level } marked)
    have journal := recordedEdge_journal i edge (setCap i { c with level := level } marked)
    have line : (setCap i { c with level := level } marked).caps[i] = { c with level := level } := by simp
    rw [edgeIs] at taken
    rw [line] at accepts journal
    rw [CapLine.accepted_idle (by exact idle)] at accepts
    generalize recordedEdge i edge (setCap i { c with level := level } marked) = u at *
    refine ⟨_, (captureEdge_taken running first level).trans (congrArg _ (taken.trans accepts)), ?_⟩
    refine ⟨by simp, fun j other => ⟨?_, ?_⟩, journal, ?_, gained, sampled, shown, ?_, ts, disc, lines, monA, monB, run,
      elapsed⟩
    · have apart : (i : Nat) ≠ j := fun same => other (Fin.ext same.symm)
      simp [apart, marked]
    · have apart : (i : Nat) ≠ j := fun same => other (Fin.ext same.symm)
      simp [sched, apart, marked]
    · simp
    · exact (congrArg Schedule.admissions sched :)

end Capture

end Sys2Proof.Machine

/-! PROOFS. The checks of an admission, in their order. -/

namespace Sys2Proof.Machine

section Descriptors

/-! ## Reading a descriptor (R78, Table 11.5) -/

theorem latePolicyOf_iff (n : Nat) (l : LatePolicy) : latePolicyOf n = some l ↔ n = if l = .skip then 1 else 0 := by
  rcases n with _ | _ | n <;> cases l <;> simp [latePolicyOf]

theorem triggerModeOf_iff (n : Nat) (m : TriggerMode) : triggerModeOf n = some m ↔ n = if m = .every then 1 else 0 := by
  rcases n with _ | _ | n <;> cases m <;> simp [triggerModeOf]

theorem latePolicyOf_some {n : Nat} (range : n ≤ 1) : latePolicyOf n = some (if n = 1 then .skip else .fire) := by
  rcases (by omega : n = 0 ∨ n = 1) with rfl | rfl <;> rfl

theorem triggerModeOf_some {n : Nat} (range : n ≤ 1) : triggerModeOf n = some (if n = 1 then .every else .once) := by
  rcases (by omega : n = 0 ∨ n = 1) with rfl | rfl <;> rfl

/-- The length and the codes of a payload are those of a descriptor; the trigger mode of a TIMED start is not examined. -/
structure DescriptorCodes (bs : List Byte) : Prop where
  length : bs.length = 38
  action : byteAt 3 bs ≤ 3
  start : byteAt 4 bs ≤ 1
  mode : byteAt 4 bs = 1 → byteAt 6 bs ≤ 1
  hasRepeat : byteAt 7 bs ≤ 1
  latePolicy : byteAt 8 bs ≤ 1
  reportFirings : byteAt 9 bs ≤ 1
  reportRemoval : byteAt 10 bs ≤ 1

/-- The descriptor that such a payload names. -/
def descriptorOf (bs : List Byte) : RawDescriptor where
  handle := numAt 0 2 bs
  line := byteAt 2 bs
  actionCode := byteAt 3 bs
  triggerLine := byteAt 5 bs
  trigger := if byteAt 4 bs = 1 then some (if byteAt 6 bs = 1 then .every else .once) else none
  hasRepeat := decide (byteAt 7 bs = 1)
  latePolicy := if byteAt 8 bs = 1 then .skip else .fire
  reportFirings := decide (byteAt 9 bs = 1)
  reportRemoval := decide (byteAt 10 bs = 1)
  width := timeAt 12 bs
  start := timeAt 20 bs
  period := timeAt 28 bs
  count := numAt 36 2 bs

theorem readDescriptor_eq {bs : List Byte} (length : bs.length = 38) (action : byteAt 3 bs ≤ 3) :
    readDescriptor bs =
      (flagOf (byteAt 4 bs)).bind fun triggered =>
        (if triggered then (triggerModeOf (byteAt 6 bs)).map some else some none).bind fun trigger =>
          (flagOf (byteAt 7 bs)).bind fun hasRepeat => (latePolicyOf (byteAt 8 bs)).bind fun latePolicy =>
            (flagOf (byteAt 9 bs)).bind fun reportFirings => (flagOf (byteAt 10 bs)).bind fun reportRemoval =>
              some
                { descriptorOf bs with
                  trigger := trigger
                  hasRepeat := hasRepeat
                  latePolicy := latePolicy
                  reportFirings := reportFirings
                  reportRemoval := reportRemoval } := by
  rw [readDescriptor, if_pos ⟨length, action⟩]
  cases flagOf (byteAt 4 bs) with
  | none => rfl
  | some triggered => cases triggered <;> rfl

theorem readDescriptor_of_codes {bs : List Byte} (codes : DescriptorCodes bs) :
    readDescriptor bs = some (descriptorOf bs) := by
  obtain ⟨length, action, start, mode, hasRepeat, latePolicy, reportFirings, reportRemoval⟩ := codes
  rw [readDescriptor_eq length action, flagOf_some start, flagOf_some hasRepeat, latePolicyOf_some latePolicy,
    flagOf_some reportFirings, flagOf_some reportRemoval]
  by_cases triggered : byteAt 4 bs = 1
  · rw [triggerModeOf_some (mode triggered)]
    simp [descriptorOf, triggered]
  · simp [descriptorOf, triggered]

theorem codes_of_readDescriptor {bs : List Byte} {raw : RawDescriptor} (reads : readDescriptor bs = some raw) :
    DescriptorCodes bs := by
  by_cases shape : bs.length = 38 ∧ byteAt 3 bs ≤ 3
  · rw [readDescriptor_eq shape.1 shape.2] at reads
    simp only [Option.bind_eq_some_iff, flagOf_iff, latePolicyOf_iff] at reads
    obtain ⟨triggered, start, trigger, mode, hasRepeat, repeats, late, policy, firings, fires, removal, removes, _⟩ := reads
    have flag (b : Bool) : b.toNat ≤ 1 := Bool.toNat_le b
    refine ⟨shape.1, shape.2, start ▸ flag triggered, fun isTriggered => ?_, repeats ▸ flag hasRepeat, ?_,
      fires ▸ flag firings, removes ▸ flag removal⟩
    · rw [isTriggered] at start
      cases triggered with
      | false => cases start
      | true =>
        rw [if_pos rfl, Option.map_eq_some_iff] at mode
        obtain ⟨m, named, _⟩ := mode
        rw [(triggerModeOf_iff _ _).mp named]
        split <;> omega
    · rw [policy]
      split <;> omega
  · rw [readDescriptor, if_neg shape] at reads
    cases reads

theorem readDescriptor_iff {bs : List Byte} {raw : RawDescriptor} :
    readDescriptor bs = some raw ↔ DescriptorCodes bs ∧ raw = descriptorOf bs := by
  constructor
  · intro reads
    have codes := codes_of_readDescriptor reads
    exact ⟨codes, Option.some.inj (reads.symm.trans (readDescriptor_of_codes codes))⟩
  · rintro ⟨codes, rfl⟩
    exact readDescriptor_of_codes codes

theorem readDescriptor_none {bs : List Byte} (uncoded : ¬ DescriptorCodes bs) : readDescriptor bs = none :=
  Option.eq_none_iff_forall_ne_some.mpr fun _ reads => uncoded (codes_of_readDescriptor reads)

/-! ## The ranges of a descriptor (R79, Table 4.6) -/

theorem durationOk_iff (t : TimeValue) (low high : Nat) :
    durationOk t low high = true ↔ t.tick < 125000000 ∧ low ≤ t.ticks ∧ t.ticks ≤ high := by
  rw [durationOk, Bool.and_eq_true, tickOk_iff, decide_eq_true_iff]

theorem dayTicks_eq : dayTicks = 86400 * 125000000 := rfl

/-- The judgement of a start (R79): a TIMED one is a time value, a TRIGGERED one an offset. -/
def RawDescriptor.startOk (raw : RawDescriptor) : Bool :=
  match raw.trigger with
  | none => raw.start.tickOk
  | some _ => durationOk raw.start 125 dayTicks

theorem startOk_iff (raw : RawDescriptor) :
    raw.startOk = true ↔
      raw.start.tick < 125000000 ∧
        (raw.trigger ≠ none → 125 ≤ raw.start.ticks ∧ raw.start.ticks ≤ 86400 * 125000000) := by
  unfold RawDescriptor.startOk
  cases raw.trigger with
  | none => simp [tickOk_iff]
  | some mode => simp [durationOk_iff, dayTicks_eq]

theorem numbersOk_eq (raw : RawDescriptor) :
    raw.numbersOk =
      (decide (1 ≤ raw.handle ∧ raw.handle ≤ 4095) && (raw.actionCode != 3 || durationOk raw.width 1 125000000) &&
        raw.startOk && (!raw.hasRepeat || durationOk raw.period 1250 dayTicks) &&
        (!(raw.hasRepeat && raw.actionCode == 3) || decide (raw.width.ticks < raw.period.ticks))) := rfl

theorem numbersOk_iff (raw : RawDescriptor) :
    raw.numbersOk = true ↔
      (1 ≤ raw.handle ∧ raw.handle ≤ 4095) ∧
      (raw.actionCode = 3 → raw.width.tick < 125000000 ∧ 1 ≤ raw.width.ticks ∧ raw.width.ticks ≤ 125000000) ∧
      (raw.start.tick < 125000000 ∧
        (raw.trigger ≠ none → 125 ≤ raw.start.ticks ∧ raw.start.ticks ≤ 86400 * 125000000)) ∧
      (raw.hasRepeat = true →
        (raw.period.tick < 125000000 ∧ 1250 ≤ raw.period.ticks ∧ raw.period.ticks ≤ 86400 * 125000000) ∧
        (raw.actionCode = 3 → raw.width.ticks < raw.period.ticks)) := by
  rw [numbersOk_eq, Bool.and_eq_true, Bool.and_eq_true, Bool.and_eq_true, Bool.and_eq_true, startOk_iff]
  cases raw.hasRepeat <;> simp [durationOk_iff, dayTicks_eq, and_assoc, imp_iff_not_or]

theorem startSpec_timed {raw : RawDescriptor} (timed : raw.trigger = none) : raw.startSpec = some (.timed raw.start) := by
  rw [RawDescriptor.startSpec, timed]

theorem startSpec_triggered {raw : RawDescriptor} {mode : TriggerMode} (triggered : raw.trigger = some mode)
    (line : raw.triggerLine < 4) : raw.startSpec = some (.triggered ⟨raw.triggerLine, line⟩ raw.start.ticks mode) := by
  rw [RawDescriptor.startSpec, triggered]
  exact dif_pos line

theorem startSpec_isSome (raw : RawDescriptor) :
    (∃ start, raw.startSpec = some start) ↔ (raw.trigger ≠ none → raw.triggerLine < 4) := by
  cases trigger : raw.trigger with
  | none => exact ⟨fun _ none => absurd rfl none, fun _ => ⟨_, startSpec_timed trigger⟩⟩
  | some mode =>
    refine ⟨fun ⟨start, names⟩ _ => ?_, fun line => ⟨_, startSpec_triggered trigger (line nofun)⟩⟩
    rw [RawDescriptor.startSpec, trigger] at names
    by_contra beyond
    exact absurd ((dif_neg beyond).symm.trans names) nofun

theorem action_of_code (raw : RawDescriptor) :
    (raw.actionCode = 0 → raw.action = .rise) ∧ (raw.actionCode = 1 → raw.action = .fall) ∧
      (raw.actionCode = 2 → raw.action = .toggle) ∧ (raw.actionCode = 3 → raw.action = .pulse raw.width.ticks) := by
  refine ⟨?_, ?_, ?_, ?_⟩ <;> intro code <;> simp [RawDescriptor.action, code]

theorem action_pulse {raw : RawDescriptor} {w : Nat} (code : raw.actionCode ≤ 3) (pulses : raw.action = .pulse w) :
    raw.actionCode = 3 ∧ raw.width.ticks = w := by
  rcases (by omega : raw.actionCode = 0 ∨ raw.actionCode = 1 ∨ raw.actionCode = 2 ∨ raw.actionCode = 3) with
    c | c | c | c <;> rw [RawDescriptor.action, c] at pulses <;> cases pulses
  exact ⟨c, rfl⟩

theorem rep_some_iff {raw : RawDescriptor} {q : RepeatSpec} :
    raw.rep = some q ↔ raw.hasRepeat = true ∧ ⟨raw.period.ticks, raw.count⟩ = q := by
  unfold RawDescriptor.rep
  cases raw.hasRepeat <;> simp

/-! ## The descriptor that is stored (R69, R79) -/

/-- The descriptor with this line and this start. -/
def RawDescriptor.stored (raw : RawDescriptor) (line : Fin 8) (start : StartSpec) : Descriptor where
  handle := raw.handle
  line := line
  action := raw.action
  start := start
  rep := raw.rep
  latePolicy := raw.latePolicy
  reportFirings := raw.reportFirings
  reportRemoval := raw.reportRemoval

theorem checked_iff (raw : RawDescriptor) (d : Descriptor) :
    raw.checked = some d ↔
      ∃ line : Fin 8, ∃ start, raw.line = line.val ∧ raw.numbersOk = true ∧ raw.startSpec = some start ∧
        raw.stored line start = d := by
  unfold RawDescriptor.checked
  constructor
  · intro passes
    split at passes
    · rename_i line
      split at passes
      · rename_i numbers
        obtain ⟨start, names, rfl⟩ := Option.map_eq_some_iff.mp passes
        exact ⟨⟨raw.line, line⟩, start, rfl, numbers, names, rfl⟩
      · cases passes
    · cases passes
  · rintro ⟨line, start, same, numbers, names, rfl⟩
    rw [dif_pos (same ▸ line.isLt), if_pos numbers, names]
    exact congrArg (fun l => some (raw.stored l start)) (Fin.ext same)

theorem inRange_iff (raw : RawDescriptor) :
    DescriptorInRange raw ↔
      raw.line < 8 ∧ raw.numbersOk = true ∧ (raw.trigger ≠ none → raw.triggerLine < 4) := by
  rw [numbersOk_iff]
  unfold DescriptorInRange
  constructor
  · rintro ⟨least, most, line, width, tick, start, rep⟩
    exact ⟨line, ⟨⟨least, most⟩, width, ⟨tick, fun triggered => (start triggered).2⟩, fun repeats =>
      have ⟨tick, least, most, longer⟩ := rep repeats
      ⟨⟨tick, least, most⟩, longer⟩⟩, fun triggered => (start triggered).1⟩
  · rintro ⟨line, ⟨⟨least, most⟩, width, ⟨tick, start⟩, rep⟩, trigger⟩
    exact ⟨least, most, line, width, tick, fun triggered => ⟨trigger triggered, start triggered⟩, fun repeats =>
      have ⟨⟨tick, least, most⟩, longer⟩ := rep repeats
      ⟨tick, least, most, longer⟩⟩

theorem checked_isSome_iff (raw : RawDescriptor) : (∃ d, raw.checked = some d) ↔ DescriptorInRange raw := by
  rw [inRange_iff, ← startSpec_isSome]
  simp only [checked_iff]
  constructor
  · rintro ⟨_, line, start, same, numbers, names, _⟩
    exact ⟨same ▸ line.isLt, numbers, start, names⟩
  · rintro ⟨line, numbers, start, names⟩
    exact ⟨_, ⟨raw.line, line⟩, start, rfl, numbers, names, rfl⟩

/-- A stored descriptor is the one that was sent, its numbers in range. -/
theorem checked_bounds {raw : RawDescriptor} {d : Descriptor} (code : raw.actionCode ≤ 3)
    (passes : raw.checked = some d) :
    1 ≤ d.handle ∧ d.handle ≤ 4095 ∧ d.handle = raw.handle ∧ d.line.val = raw.line ∧
      (∀ w, d.action = .pulse w → 1 ≤ w ∧ w ≤ 125000000) ∧
      (∀ first, d.start = .timed first → first.tick < 125000000) ∧
      (∀ i offset mode, d.start = .triggered i offset mode → 125 ≤ offset ∧ offset ≤ 86400 * 125000000) ∧
      (∀ q, d.rep = some q → 1250 ≤ q.period ∧ q.period ≤ 86400 * 125000000 ∧
        ∀ w, d.action = .pulse w → w < q.period) := by
  have range := (checked_isSome_iff raw).mp ⟨d, passes⟩
  obtain ⟨least, most, _, width, tick, triggered, rep⟩ := range
  obtain ⟨line, start, same, _, names, rfl⟩ := (checked_iff raw d).mp passes
  refine ⟨least, most, rfl, same.symm, fun w pulses => ?_, fun first timed => ?_, fun i offset mode starts => ?_,
    fun q repeats => ?_⟩
  · obtain ⟨isPulse, rfl⟩ := action_pulse code pulses
    exact (width isPulse).2
  · cases trigger : raw.trigger with
    | none =>
      obtain rfl : StartSpec.timed raw.start = start := Option.some.inj ((startSpec_timed trigger).symm.trans names)
      cases timed
      exact tick
    | some m =>
      have inRange := (triggered (by rw [trigger]; nofun)).1
      obtain rfl := Option.some.inj ((startSpec_triggered trigger inRange).symm.trans names)
      cases timed
  · cases trigger : raw.trigger with
    | none =>
      obtain rfl : StartSpec.timed raw.start = start := Option.some.inj ((startSpec_timed trigger).symm.trans names)
      cases starts
    | some m =>
      obtain ⟨inRange, offsets⟩ := triggered (by rw [trigger]; nofun)
      obtain rfl := Option.some.inj ((startSpec_triggered trigger inRange).symm.trans names)
      cases starts
      exact offsets
  · obtain ⟨has, rfl⟩ := rep_some_iff.mp repeats
    obtain ⟨_, shortest, longest, longer⟩ := rep has
    refine ⟨shortest, longest, fun w pulses => ?_⟩
    obtain ⟨isPulse, rfl⟩ := action_pulse code pulses
    exact longer isPulse

/-- What is stored of a descriptor in range, field by field (R69). -/
theorem checked_of_inRange {raw : RawDescriptor} {i : Fin 8} (range : DescriptorInRange raw) (line : raw.line = i.val) :
    ∃ d, raw.checked = some d ∧ d.handle = raw.handle ∧ d.line = i ∧ (raw.actionCode = 0 → d.action = .rise) ∧
      (raw.actionCode = 1 → d.action = .fall) ∧ (raw.actionCode = 2 → d.action = .toggle) ∧
      (raw.actionCode = 3 → d.action = .pulse raw.width.ticks) ∧
      (raw.trigger = none → d.start = .timed raw.start) ∧
      (∀ mode, raw.trigger = some mode →
        ∃ j : Fin 4, j.val = raw.triggerLine ∧ d.start = .triggered j raw.start.ticks mode) ∧
      (raw.hasRepeat = false → d.rep = none) ∧
      (raw.hasRepeat = true → d.rep = some ⟨raw.period.ticks, raw.count⟩) ∧ d.latePolicy = raw.latePolicy ∧
      d.reportFirings = raw.reportFirings ∧ d.reportRemoval = raw.reportRemoval := by
  obtain ⟨_, numbers, trigger⟩ := (inRange_iff raw).mp range
  obtain ⟨start, names⟩ := (startSpec_isSome raw).mpr trigger
  obtain ⟨rise, fall, toggle, pulse⟩ := action_of_code raw
  refine ⟨raw.stored i start, (checked_iff _ _).mpr ⟨i, start, line, numbers, names, rfl⟩, rfl, rfl, rise, fall,
    toggle, pulse, fun timed => ?_, fun mode triggered => ?_, fun none => ?_, fun has => ?_, rfl, rfl, rfl⟩
  · exact Option.some.inj (names.symm.trans (startSpec_timed timed))
  · have inRange := trigger (by rw [triggered]; nofun)
    exact ⟨⟨raw.triggerLine, inRange⟩, rfl, Option.some.inj (names.symm.trans (startSpec_triggered triggered inRange))⟩
  · exact if_neg (by rw [none]; exact Bool.false_ne_true)
  · exact if_pos has

end Descriptors

section Admission

variable {s : State} {r : Request} {raw : RawDescriptor}

/-! ## The checks of Table 4.5 -/

theorem admitEntry_unset (unset : s.ts.timeState = .unset) : admitEntry raw s = refuse .notSet s := if_pos unset

theorem admitEntry_duplicate (set : s.ts.timeState = .set) (held : s.sched.holds raw.handle = true) :
    admitEntry raw s = refuse .duplicate s :=
  (if_neg (by rw [set]; nofun)).trans (if_pos held)

theorem admitEntry_full (set : s.ts.timeState = .set) (fresh : s.sched.holds raw.handle = false)
    (full : 64 ≤ s.sched.entries.length) : admitEntry raw s = refuse .full s :=
  (if_neg (by rw [set]; nofun)).trans ((if_neg (by rw [fresh]; exact Bool.false_ne_true)).trans (if_pos full))

theorem admitEntry_room (set : s.ts.timeState = .set) (fresh : s.sched.holds raw.handle = false)
    (room : s.sched.entries.length < 64) :
    admitEntry raw s =
      match raw.checked with
      | none => refuse .range s
      | some d => if s.lines[d.line].mode = .scheduled then admitChecked d s else refuse .state s :=
  (if_neg (by rw [set]; nofun)).trans
    ((if_neg (by rw [fresh]; exact Bool.false_ne_true)).trans (if_neg (Nat.not_le.mpr room)))

/-- Settles O18, check by check. -/
theorem admissionChecksInOrder : Obligations.AdmissionChecksInOrder := by
  intro s r head kind
  have refused {raw : RawDescriptor} {status : Status} (reads : readDescriptor r.payload = some raw)
      (refuses : admitEntry raw (dequeueRequest s) = refuse status (dequeueRequest s)) :
      RefusedWith .admitEntry r status s := answered_of_read rfl head (hasKind_of kind) reads refuses
  refine ⟨fun malformed => ?_, fun raw reads => ?_, fun length action start mode rep late firings removal => ?_,
    checked_isSome_iff, fun raw d reads passes => ?_, fun raw reads => ?_,
    fun raw i range line _ => checked_of_inRange range line⟩
  · refine malformed_of_unread rfl head (hasKind_of kind) (readDescriptor_none fun codes => ?_)
    obtain ⟨length, action, start, mode, rep, late, firings, removal⟩ := codes
    omega
  · refine ⟨fun unset => refused reads (admitEntry_unset unset), fun set held => refused reads (admitEntry_duplicate set held),
      fun set fresh full => refused reads (admitEntry_full set fresh full), fun set fresh room => ⟨fun beyond => ?_,
      fun d passes unscheduled => ?_⟩⟩
    · refine refused reads ((admitEntry_room (by exact set) (by exact fresh) (by exact room)).trans ?_)
      rw [beyond]
    · refine refused reads ((admitEntry_room (by exact set) (by exact fresh) (by exact room)).trans ?_)
      rw [passes]
      exact if_neg unscheduled
  · exact ⟨_, readDescriptor_of_codes ⟨length, action, start, mode, rep, late, firings, removal⟩⟩
  · obtain ⟨codes, rfl⟩ := readDescriptor_iff.mp reads
    exact checked_bounds codes.action passes
  · obtain ⟨codes, rfl⟩ := readDescriptor_iff.mp reads
    have start := codes.start
    refine ⟨rfl, rfl, rfl, ?_, rfl, fun mode triggered => ?_, decide_eq_true_iff, ?_, decide_eq_true_iff,
      decide_eq_true_iff, rfl, rfl, rfl, rfl⟩
    · unfold descriptorOf
      split <;> simp <;> omega
    · unfold descriptorOf at triggered
      split at triggered
      · cases triggered
        simp
      · cases triggered
    · unfold descriptorOf
      simp

end Admission

end Sys2Proof.Machine

/-! PROOFS. The effect of an admission that has passed its checks. -/

namespace Sys2Proof.Machine

section Found

variable {s : State} {handle : Nat}

/-! ## Finding the entry that has just been stored (R85) -/

theorem find?_of_unique {α : Type} {l : List α} {p : α → Bool} {x : α} (mem : x ∈ l) (fits : p x = true)
    (only : ∀ y ∈ l, p y = true → y = x) : l.find? p = some x := by
  cases found : l.find? p with
  | none => exact absurd fits (List.find?_eq_none.mp found x mem)
  | some y => exact congrArg some (only y (List.mem_of_find?_eq_some found) (List.find?_some found))

theorem find_arm {a : ArmedEntry} (fresh : s.sched.holds a.handle = false) :
    (arm a s).sched.find a.handle = some (a.entry, some a.due) := by
  obtain ⟨others, _⟩ := (Schedule.holds_eq_false_iff _ _).mp fresh
  have members (b : ArmedEntry) : b ∈ (arm a s).sched.armed ↔ b = a ∨ b ∈ s.sched.armed :=
    (insertArmed_perm a s.sched.armed).mem_iff.trans List.mem_cons
  have found : (arm a s).sched.findArmed a.handle = some a := by
    refine find?_of_unique ((members a).mpr (.inl rfl)) (by simp) fun b mem same => ?_
    exact ((members b).mp mem).resolve_right fun armed => others b armed (by simpa using same)
  rw [Schedule.find, found]

/-- The waiting lists after an entry has joined one of them. -/
theorem joinWaiting_allWaiting (i : Fin 4) (e : Entry) (s : State) :
    (joinWaiting i e s).sched.allWaiting.Perm (e :: s.sched.allWaiting) := by
  have entries := joinWaiting_entries s i e
  exact (List.perm_append_left_iff _).mp (entries.trans List.perm_middle.symm)

theorem find_joinWaiting {i : Fin 4} {e : Entry} (fresh : s.sched.holds e.desc.handle = false) :
    (joinWaiting i e s).sched.find e.desc.handle = some (e, none) := by
  obtain ⟨armed, others⟩ := (Schedule.holds_eq_false_iff _ _).mp fresh
  have members (x : Entry) : x ∈ (joinWaiting i e s).sched.allWaiting ↔ x = e ∨ x ∈ s.sched.allWaiting :=
    (joinWaiting_allWaiting i e s).mem_iff.trans List.mem_cons
  have unarmed : (joinWaiting i e s).sched.findArmed e.desc.handle = none :=
    List.find?_eq_none.mpr fun a mem => by simpa using armed a mem
  have found : (joinWaiting i e s).sched.findWaiting e.desc.handle = some e := by
    refine find?_of_unique ((members e).mpr (.inl rfl)) (by simp) fun x mem same => ?_
    exact ((members x).mp mem).resolve_right fun waits => others x waits (by simpa using same)
  rw [Schedule.find, unarmed, found]
  rfl

/-! ## The reply (R85) -/

theorem admissionReply_armed {e : Entry} {due : TimeValue} (found : s.sched.find handle = some (e, some due))
    (number : Nat) (late : Bool) :
    admissionReply handle number late s =
      okReply (0x00#8 :: (timeBytes due ++ beBytes 2 e.remaining) ++ beBytes 4 number ++ [flagByte late]) := by
  rw [admissionReply, found]
  rfl

theorem admissionReply_waiting {e : Entry} (found : s.sched.find handle = some (e, none)) (number : Nat) (late : Bool) :
    admissionReply handle number late s =
      okReply (0x01#8 :: (timeBytes ⟨0, 0⟩ ++ beBytes 2 e.remaining) ++ beBytes 4 number ++ [flagByte late]) := by
  rw [admissionReply, found]
  rfl

theorem admissionReply_completed (absent : s.sched.find handle = none) (number : Nat) (late : Bool) :
    admissionReply handle number late s =
      okReply (0x02#8 :: (timeBytes ⟨0, 0⟩ ++ beBytes 2 0) ++ beBytes 4 number ++ [flagByte late]) := by
  rw [admissionReply, absent]
  rfl

end Found

section Admitted

variable {s : State} {d : Descriptor} {first : TimeValue}

/-! ## Check 7 and the admission (R81 to R84) -/

theorem admitChecked_triggered {i : Fin 4} {offset : Nat} {mode : TriggerMode} (start : d.start = .triggered i offset mode) :
    admitChecked d s =
      (admissionReply d.handle (newEntry d s).number false (joinWaiting i (newEntry d s) (countAdmission s)),
        joinWaiting i (newEntry d s) (countAdmission s)) := by
  rw [admitChecked, start]

theorem admitChecked_onTime (start : d.start = .timed first) (ahead : s.ts.now.lin < first.lin) :
    admitChecked d s =
      (admissionReply d.handle (newEntry d s).number false (arm ⟨newEntry d s, first, 0⟩ (countAdmission s)),
        arm ⟨newEntry d s, first, 0⟩ (countAdmission s)) := by
  rw [admitChecked, start]
  exact if_pos ahead

theorem admitChecked_lateFire (start : d.start = .timed first) (late : first.lin ≤ s.ts.now.lin)
    (fires : d.latePolicy = .fire) {t : State}
    (done : admitLateFire ⟨newEntry d s, first, 0⟩ (passedCount s.ts.now first d) (countAdmission s) = t) :
    admitChecked d s = (admissionReply d.handle (newEntry d s).number true t, t) := by
  subst done
  rw [admitChecked, start, fires]
  exact if_neg (Nat.not_lt.mpr late)

theorem admitChecked_lateSkip (start : d.start = .timed first) (late : first.lin ≤ s.ts.now.lin)
    (skips : d.latePolicy = .skip) :
    admitChecked d s =
      if refusedAsLate (passedCount s.ts.now first d) d then refuse .late s
      else
        (admissionReply d.handle (newEntry d s).number true
          (admitLateSkip ⟨newEntry d s, first, 0⟩ (passedCount s.ts.now first d) (countAdmission s)),
          admitLateSkip ⟨newEntry d s, first, 0⟩ (passedCount s.ts.now first d) (countAdmission s)) := by
  rw [admitChecked, start, skips]
  exact if_neg (Nat.not_lt.mpr late)

theorem passedCount_repeats {q : RepeatSpec} (now : TimeValue) (repeats : d.rep = some q) :
    passedCount now first d = (now.lin - first.lin) / q.period + 1 := by
  rw [passedCount, repeats]

theorem refusedAsLate_once (passed : Nat) (once : d.rep = none) : refusedAsLate passed d = true := by
  rw [refusedAsLate, once]

theorem refusedAsLate_iff {q : RepeatSpec} (passed : Nat) (repeats : d.rep = some q) :
    refusedAsLate passed d = true ↔ q.count ≠ 0 ∧ q.count ≤ passed := by
  rw [refusedAsLate, repeats, Bool.and_eq_true, decide_eq_true_iff, decide_eq_true_iff]

theorem burstCount_repeats {q : RepeatSpec} (repeats : d.rep = some q) : d.burstCount = q.count := by
  rw [Descriptor.burstCount, repeats]

/-- The burst of a TIMED entry ends with its removal (R97, R98). -/
theorem burstEnded_timed {e : Entry} (outcome : RemovalOutcome) (timed : e.desc.start = .timed first) :
    burstEnded outcome e s = reportRemoved outcome e s := by
  rw [burstEnded, timed]
  rfl

theorem reportRemoved_sched (outcome : RemovalOutcome) (e : Entry) : (reportRemoved outcome e s).sched = s.sched := by
  unfold reportRemoved
  split
  · exact appendRecord_sched s _
  · rfl

theorem movedOn_fresh (ticks left : Nat) (e x : Entry) :
    movedOn ticks left ⟨e, first, 0⟩ x =
      ⟨{ x with remaining := left }, TimeValue.ofLin (first.lin + ticks), ((first.lin + ticks) / wrapLin : Nat)⟩ := by
  rw [movedOn, Int.zero_add]

/-- The late firing of an admission, and what follows of its burst (R82). -/
theorem admitLateFire_eq (e : Entry) (passed : Nat) :
    admitLateFire ⟨e, first, 0⟩ passed s =
      settle passed .complete ((⟨e, first, 0⟩ : ArmedEntry).withEntry (firedEntry e))
        (raise .schedule (firedState true e s)) := by
  rw [admitLateFire, fireAction_eq]
  rfl

end Admitted

section Answered

variable {s : State} {r : Request} {d : Descriptor}

theorem admits_of_checked {rep : Reply} {t : State} (passes : PassesSixChecks s r d)
    (done : admitChecked d (dequeueRequest s) = (rep, t)) : AnsweredWith .admitEntry r rep t s := by
  obtain ⟨head, kind, set, room, mode, raw, reads, fresh, checked⟩ := passes
  refine answered_of_read rfl head (hasKind_of kind) reads ((admitEntry_room (by exact set) (by exact fresh)
    (by exact room)).trans ?_)
  rw [checked]
  exact (if_pos mode).trans done

theorem PassesSixChecks.fresh (passes : PassesSixChecks s r d) : s.sched.holds d.handle = false := by
  obtain ⟨_, _, _, _, _, raw, _, fresh, checked⟩ := passes
  rw [checked_handle checked]
  exact fresh

/-! ## The effects, by the start and the late policy -/

theorem firedState_sched (late : Bool) (e : Entry) (s : State) : (firedState late e s).sched = s.sched := by
  have fired := fireAction_sched (s := s) (e := e) late
  rwa [fireAction_eq] at fired

/-- The reply to an admission that has armed its entry. -/
theorem admissionReply_arm {a : ArmedEntry} {t : State} (handle : a.handle = d.handle)
    (fresh : t.sched.holds d.handle = false) (number : Nat) (late : Bool) :
    admissionReply d.handle number late (arm a t) =
      okReply
        (0x00#8 :: (timeBytes a.due ++ beBytes 2 a.entry.remaining) ++ beBytes 4 number ++ [flagByte late]) := by
  rw [← handle] at fresh ⊢
  exact admissionReply_armed (find_arm fresh) number late

theorem admissionReply_removed {t : State} (fresh : t.sched.holds d.handle = false) (outcome : RemovalOutcome)
    (e : Entry) (number : Nat) (late : Bool) :
    admissionReply d.handle number late (reportRemoved outcome e t) =
      okReply (0x02#8 :: (timeBytes ⟨0, 0⟩ ++ beBytes 2 0) ++ beBytes 4 number ++ [flagByte late]) :=
  admissionReply_completed ((Schedule.find_eq_none_iff _ _).mpr (by rw [reportRemoved_sched]; exact fresh)) number late

variable {first : TimeValue} {a : ArmedEntry} (passes : PassesSixChecks s r d) (start : d.start = .timed first)
  (late : first.lin ≤ s.ts.now.lin)

/-- What a late admission under FIRE goes on from: the schedule attention raised after the late firing (R82). -/
def lateFired (s : State) (d : Descriptor) : State :=
  raise .schedule (firedState true (AdmittedEntry s d) (countAdmission (dequeueRequest s)))

include passes in
theorem lateFired_fresh : (lateFired s d).sched.holds d.handle = false := by
  rw [lateFired, raise_sched, firedState_sched]
  exact passes.fresh

include passes start late

/-- A late admission under FIRE whose burst has ended is answered as COMPLETED (R82, R85). -/
theorem lateFire_completes (fires : d.latePolicy = .fire)
    (ended : settle (passedCount s.ts.now first d) .complete
      ((⟨AdmittedEntry s d, first, 0⟩ : ArmedEntry).withEntry (firedEntry (AdmittedEntry s d))) (lateFired s d) =
        burstEnded .complete (firedEntry (AdmittedEntry s d)) (lateFired s d)) :
    AnsweredWith .admitEntry r
      (okReply
        (0x02#8 :: (timeBytes ⟨0, 0⟩ ++ beBytes 2 0) ++ beBytes 4 ((s.sched.admissions + 1) % 2 ^ 32) ++ [0x01#8]))
      (reportRemoved .complete (firedEntry (AdmittedEntry s d)) (lateFired s d)) s := by
  have done := (admitLateFire_eq (AdmittedEntry s d) (passedCount s.ts.now first d)).trans
    (ended.trans (burstEnded_timed (first := first) .complete start))
  refine admits_of_checked passes ((admitChecked_lateFire (s := dequeueRequest s) start late fires done).trans ?_)
  exact Prod.ext (admissionReply_removed (lateFired_fresh passes) _ _ _ _) rfl

/-- A late admission under FIRE whose burst goes on is armed for its next occurrence (R82, R85). -/
theorem lateFire_rearms (fires : d.latePolicy = .fire) (handle : a.handle = d.handle)
    (moves : settle (passedCount s.ts.now first d) .complete
      ((⟨AdmittedEntry s d, first, 0⟩ : ArmedEntry).withEntry (firedEntry (AdmittedEntry s d))) (lateFired s d) =
        arm a (lateFired s d)) :
    AnsweredWith .admitEntry r
      (okReply
        (0x00#8 :: (timeBytes a.due ++ beBytes 2 a.entry.remaining) ++
          beBytes 4 ((s.sched.admissions + 1) % 2 ^ 32) ++ [0x01#8]))
      (arm a (lateFired s d)) s := by
  have done := (admitLateFire_eq (AdmittedEntry s d) (passedCount s.ts.now first d)).trans moves
  refine admits_of_checked passes ((admitChecked_lateFire (s := dequeueRequest s) start late fires done).trans ?_)
  exact Prod.ext (admissionReply_arm handle (lateFired_fresh passes) _ _) rfl

/-- A late admission under SKIP without a later occurrence is refused (R83). -/
theorem lateSkip_refused (skips : d.latePolicy = .skip)
    (refused : refusedAsLate (passedCount s.ts.now first d) d = true) : RefusedWith .admitEntry r .late s :=
  admits_of_checked passes ((admitChecked_lateSkip (s := dequeueRequest s) start late skips).trans (if_pos refused))

/-- A late admission under SKIP with a later occurrence is armed for it, and raises SCHEDULE (R83, R85). -/
theorem lateSkip_rearms (skips : d.latePolicy = .skip)
    (goesOn : ¬ refusedAsLate (passedCount s.ts.now first d) d = true) (handle : a.handle = d.handle)
    (moves : settle (passedCount s.ts.now first d) .skipped
      ((⟨AdmittedEntry s d, first, 0⟩ : ArmedEntry).withEntry (AdmittedEntry s d))
        (countAdmission (dequeueRequest s)) = arm a (countAdmission (dequeueRequest s))) :
    AnsweredWith .admitEntry r
      (okReply
        (0x00#8 :: (timeBytes a.due ++ beBytes 2 a.entry.remaining) ++
          beBytes 4 ((s.sched.admissions + 1) % 2 ^ 32) ++ [0x01#8]))
      (raise .schedule (arm a (countAdmission (dequeueRequest s)))) s := by
  have found : (raise .schedule (arm a (countAdmission (dequeueRequest s)))).sched.find d.handle =
      some (a.entry, some a.due) := by
    rw [raise_sched, ← handle]
    exact find_arm (by rw [handle]; exact passes.fresh)
  have done : admitLateSkip ⟨AdmittedEntry s d, first, 0⟩ (passedCount s.ts.now first d)
      (countAdmission (dequeueRequest s)) = raise .schedule (arm a (countAdmission (dequeueRequest s))) :=
    congrArg (raise .schedule) moves
  refine admits_of_checked passes ((admitChecked_lateSkip (s := dequeueRequest s) start late skips).trans
    ((if_neg goesOn).trans ?_))
  rw [show newEntry d (dequeueRequest s) = AdmittedEntry s d from rfl]
  exact Prod.ext ((congrArg _ done).trans (admissionReply_armed found _ _)) done

end Answered

/-- Settles O19, by the start of the entry, its late policy and what is left of its burst. -/
theorem admissionTakesEffect : Obligations.AdmissionTakesEffect := by
  intro s r d passes e counted number
  have fresh : counted.sched.holds d.handle = false := passes.fresh
  refine ⟨fun first start ahead => ?_, fun i offset mode start => ?_, fun first start late => ?_⟩
  · refine admits_of_checked passes ((admitChecked_onTime (s := dequeueRequest s) start ahead).trans ?_)
    exact Prod.ext (admissionReply_arm (a := ⟨e, first, 0⟩) rfl fresh _ _) rfl
  · refine admits_of_checked passes ((admitChecked_triggered (s := dequeueRequest s) start).trans ?_)
    exact Prod.ext (admissionReply_waiting (find_joinWaiting (e := e) fresh) _ _) rfl
  intro fired raised completed
  have firedIs : fired = (firedEntry e, firedState true e counted) := fireAction_eq true e counted
  have entryIs : fired.1 = firedEntry e := congrArg Prod.fst firedIs
  have raisedIs : raised = lateFired s d := congrArg (fun f => raise .schedule f.2) firedIs
  rw [entryIs, raisedIs]
  clear_value fired raised
  refine ⟨fun once => ⟨fun fires => ?_, fun skips => ?_⟩, fun q repeats => ?_⟩
  · exact lateFire_completes passes start late fires (settle_once _ _ _ _ _ once)
  · exact lateSkip_refused passes start late skips (refusedAsLate_once _ once)
  intro n due left rearmed accepted
  have count : passedCount s.ts.now first d = n := passedCount_repeats s.ts.now repeats
  have remaining : e.remaining = q.count := burstCount_repeats repeats
  refine ⟨fun bounded ended => ⟨fun fires => ?_, fun skips => ?_⟩, fun goesOn => ?_⟩
  · exact lateFire_completes passes start late fires (settle_ended _ _ _ _ _ repeats bounded
      (by rw [count]; exact remaining.trans_le ended))
  · exact lateSkip_refused passes start late skips ((refusedAsLate_iff _ repeats).mpr ⟨bounded, by rw [count]; exact ended⟩)
  have moves (outcome : RemovalOutcome) (x : Entry) (t : State) (desc : x.desc = d) (has : x.remaining = q.count) :
      settle (passedCount s.ts.now first d) outcome ((⟨e, first, 0⟩ : ArmedEntry).withEntry x) t =
        arm (rearmed x) t := by
    have repeated : x.desc.rep = some q := by rw [desc, repeats]
    rw [count]
    by_cases unbounded : q.count = 0
    · rw [settle_unbounded _ _ _ _ _ repeated unbounded, movedOn_fresh, has,
        ← show left = q.count from (if_pos unbounded).trans unbounded.symm]
    · rw [settle_left _ _ _ _ _ repeated unbounded (by rw [has]; exact goesOn.resolve_left unbounded), movedOn_fresh, has,
        ← show left = q.count - n from if_neg unbounded]
  refine ⟨fun fires => ?_, fun skips => ?_⟩
  · exact lateFire_rearms (a := rearmed (firedEntry e)) passes start late fires rfl (moves _ _ _ rfl remaining)
  · refine lateSkip_rearms (a := rearmed e) passes start late skips (fun refused => ?_) rfl (moves _ _ _ rfl remaining)
    obtain ⟨bounded, ended⟩ := (refusedAsLate_iff _ repeats).mp refused
    rw [count] at ended
    omega

end Sys2Proof.Machine
